-- ==== Sys2Proof/Word.lean ====
section
/-! DEFINITION. The word types of the machine: what a port carries, what a program holds, what names a register. -/

namespace Sys2Proof

/-- The widest value a port or a register of any build carries (`00_scope.md` R3, R4: widths above 64 bits are out of
scope). A build with `XLEN = 32` uses the low 32 bits (log entry 10). -/
abbrev Word := BitVec 64

/-- One 32-bit command word (`30_encoding.md` R34). -/
abbrev CommandWord := BitVec 32

/-- The number of one of the 32 registers `x0` .. `x31` (`10_state.md` R17). -/
abbrev Reg := Fin 32

end Sys2Proof
end

