-- ==== Sys2Proof/Config.lean ====
section
/-! DEFINITION. The build parameters of the block (`00_scope.md` R4). The spec leaves them open, so a model is right only
if it is right for every value of them: they are data, every statement ranges over them, and nothing the machine does
changes them (log entry 1). -/

namespace Sys2Proof

/-- The native register width `XLEN`, 32 or 64 (`00_scope.md` R4; `92_eei_decisions.md` D13, OPEN). -/
inductive Xlen where
  | x32
  | x64
  deriving DecidableEq, Repr

/-- The number of bits `XLEN` stands for. -/
abbrev Xlen.bits : Xlen → Nat
  | .x32 => 32
  | .x64 => 64

/-- `NARROW_EXT`: how the 32-bit result of a narrow operation is widened (`30_encoding.md` R44; D5, OPEN). -/
inductive NarrowExt where
  | sign
  | zero
  deriving DecidableEq, Repr

/-- One build of the block and its sequencer (`00_scope.md` R4).
`bfpLenLsb32` and `bfpLenLsb64` are `BFP_LEN_LSB(32)` and `BFP_LEN_LSB(64)` (`45_fieldplace.md` R101; log entry 17). -/
structure Config where
  xlen        : Xlen
  narrowExt   : NarrowExt
  bfpLenLsb32 : Nat
  bfpLenLsb64 : Nat
  deriving DecidableEq, Repr

/-- `BFP_LEN_LSB(W)` at `W = XLEN`, the width of the native `bfp`. -/
def Config.bfpLenLsbNative (c : Config) : Nat :=
  match c.xlen with
  | .x32 => c.bfpLenLsb32
  | .x64 => c.bfpLenLsb64

/-- The build `State.reset` uses.
DESIGN CHOICE, unsafe: the spec leaves `XLEN` and `NARROW_EXT` open (log entries 2 and 3); no statement rests on these
values. `BFP_LEN_LSB` is the spec's stated default `log2(W)` (D14; log entry 4). -/
def Config.reference : Config :=
  { xlen := .x64, narrowExt := .sign, bfpLenLsb32 := 5, bfpLenLsb64 := 6 }

end Sys2Proof
end

