-- ==== Sys2Proof/Syntax.lean ====
section
/-! DEFINITION. The abstract syntax of the command set: one constructor per row of spec/opcode_table.json, in the table's
order, each with the register numbers its row has fields for (`30_encoding.md` R31, R35, R37: registers only, no
immediates). The operand order is that of the assembler (R39): destination, then `rs1`, `rs2`, `rs3`. -/

namespace Sys2Proof

/-- The 35 operations of the command set (`30_encoding.md` R31, R33, R45). -/
inductive Instr where
  /-- R52: generalized bit reverse -/
  | grev (rd rs1 rs2 : Reg)
  /-- R53: its narrow form -/
  | grevw (rd rs1 rs2 : Reg)
  /-- R54: generalized OR-combine -/
  | gorc (rd rs1 rs2 : Reg)
  /-- R55: its narrow form -/
  | gorcw (rd rs1 rs2 : Reg)
  /-- R61: carry-less product, low half -/
  | clmul (rd rs1 rs2 : Reg)
  /-- R62: carry-less product, high half -/
  | clmulh (rd rs1 rs2 : Reg)
  /-- R63: carry-less product, reversed -/
  | clmulr (rd rs1 rs2 : Reg)
  /-- R71: funnel shift left -/
  | fsl (rd rs1 rs2 rs3 : Reg)
  /-- R73: its narrow form -/
  | fslw (rd rs1 rs2 rs3 : Reg)
  /-- R72: funnel shift right -/
  | fsr (rd rs1 rs2 rs3 : Reg)
  /-- R74: its narrow form -/
  | fsrw (rd rs1 rs2 rs3 : Reg)
  /-- R82: perfect shuffle -/
  | shfl (rd rs1 rs2 : Reg)
  /-- R84: its narrow form -/
  | shflw (rd rs1 rs2 : Reg)
  /-- R83: inverse shuffle -/
  | unshfl (rd rs1 rs2 : Reg)
  /-- R85: its narrow form -/
  | unshflw (rd rs1 rs2 : Reg)
  /-- R91: nibble crossbar -/
  | xperm_n (rd rs1 rs2 : Reg)
  /-- R92: byte crossbar -/
  | xperm_b (rd rs1 rs2 : Reg)
  /-- R93: halfword crossbar -/
  | xperm_h (rd rs1 rs2 : Reg)
  /-- R94: word crossbar -/
  | xperm_w (rd rs1 rs2 : Reg)
  /-- R102: bit-field place -/
  | bfp (rd rs1 rs2 : Reg)
  /-- R103: its narrow form -/
  | bfpw (rd rs1 rs2 : Reg)
  /-- R111: mask-directed gather -/
  | bcompress (rd rs1 rs2 : Reg)
  /-- R112: mask-directed scatter -/
  | bdecompress (rd rs1 rs2 : Reg)
  /-- R121: CRC-32 over 8 bits -/
  | crc32_b (rd rs1 : Reg)
  /-- R122: CRC-32 over 16 bits -/
  | crc32_h (rd rs1 : Reg)
  /-- R123: CRC-32 over 32 bits -/
  | crc32_w (rd rs1 : Reg)
  /-- R124: CRC-32 over 64 bits -/
  | crc32_d (rd rs1 : Reg)
  /-- R125: CRC-32C over 8 bits -/
  | crc32c_b (rd rs1 : Reg)
  /-- R126: CRC-32C over 16 bits -/
  | crc32c_h (rd rs1 : Reg)
  /-- R127: CRC-32C over 32 bits -/
  | crc32c_w (rd rs1 : Reg)
  /-- R128: CRC-32C over 64 bits -/
  | crc32c_d (rd rs1 : Reg)
  /-- R131: 8x8 bit-matrix transpose -/
  | bmatflip (rd rs1 : Reg)
  /-- R132: 8x8 matrix product over GF(2) -/
  | bmatxor (rd rs1 rs2 : Reg)
  /-- R133: 8x8 boolean matrix product -/
  | bmator (rd rs1 rs2 : Reg)
  /-- R140: conditional select -/
  | cmov (rd rs1 rs2 rs3 : Reg)
  deriving DecidableEq, Repr

/-- The destination register `rdf` of a command. -/
def Instr.rd : Instr → Reg
  | .grev rd _ _ => rd
  | .grevw rd _ _ => rd
  | .gorc rd _ _ => rd
  | .gorcw rd _ _ => rd
  | .clmul rd _ _ => rd
  | .clmulh rd _ _ => rd
  | .clmulr rd _ _ => rd
  | .fsl rd _ _ _ => rd
  | .fslw rd _ _ _ => rd
  | .fsr rd _ _ _ => rd
  | .fsrw rd _ _ _ => rd
  | .shfl rd _ _ => rd
  | .shflw rd _ _ => rd
  | .unshfl rd _ _ => rd
  | .unshflw rd _ _ => rd
  | .xperm_n rd _ _ => rd
  | .xperm_b rd _ _ => rd
  | .xperm_h rd _ _ => rd
  | .xperm_w rd _ _ => rd
  | .bfp rd _ _ => rd
  | .bfpw rd _ _ => rd
  | .bcompress rd _ _ => rd
  | .bdecompress rd _ _ => rd
  | .crc32_b rd _ => rd
  | .crc32_h rd _ => rd
  | .crc32_w rd _ => rd
  | .crc32_d rd _ => rd
  | .crc32c_b rd _ => rd
  | .crc32c_h rd _ => rd
  | .crc32c_w rd _ => rd
  | .crc32c_d rd _ => rd
  | .bmatflip rd _ => rd
  | .bmatxor rd _ _ => rd
  | .bmator rd _ _ => rd
  | .cmov rd _ _ _ => rd

/-- The registers a command reads, in operand order (`30_encoding.md` R41). -/
def Instr.sources : Instr → List Reg
  | .grev _ a b => [a, b]
  | .grevw _ a b => [a, b]
  | .gorc _ a b => [a, b]
  | .gorcw _ a b => [a, b]
  | .clmul _ a b => [a, b]
  | .clmulh _ a b => [a, b]
  | .clmulr _ a b => [a, b]
  | .fsl _ a b c => [a, b, c]
  | .fslw _ a b c => [a, b, c]
  | .fsr _ a b c => [a, b, c]
  | .fsrw _ a b c => [a, b, c]
  | .shfl _ a b => [a, b]
  | .shflw _ a b => [a, b]
  | .unshfl _ a b => [a, b]
  | .unshflw _ a b => [a, b]
  | .xperm_n _ a b => [a, b]
  | .xperm_b _ a b => [a, b]
  | .xperm_h _ a b => [a, b]
  | .xperm_w _ a b => [a, b]
  | .bfp _ a b => [a, b]
  | .bfpw _ a b => [a, b]
  | .bcompress _ a b => [a, b]
  | .bdecompress _ a b => [a, b]
  | .crc32_b _ a => [a]
  | .crc32_h _ a => [a]
  | .crc32_w _ a => [a]
  | .crc32_d _ a => [a]
  | .crc32c_b _ a => [a]
  | .crc32c_h _ a => [a]
  | .crc32c_w _ a => [a]
  | .crc32c_d _ a => [a]
  | .bmatflip _ a => [a]
  | .bmatxor _ a b => [a, b]
  | .bmator _ a b => [a, b]
  | .cmov _ a b c => [a, b, c]

end Sys2Proof
end

