-- ==== Sys2Proof/WellFormed.lean ====
section
/-! DEFINITION. Which commands a build has. Register numbers are in range by their type; what is left to check is that the
build has the operation (`30_encoding.md` R33): a narrow form and a function that needs a 64-bit operand exist only when
`XLEN = 64`. -/

namespace Sys2Proof

/-- The seven narrow forms (`30_encoding.md` R32). -/
def Instr.isNarrow : Instr → Bool
  | .grev _ _ _ => false
  | .grevw _ _ _ => true
  | .gorc _ _ _ => false
  | .gorcw _ _ _ => true
  | .clmul _ _ _ => false
  | .clmulh _ _ _ => false
  | .clmulr _ _ _ => false
  | .fsl _ _ _ _ => false
  | .fslw _ _ _ _ => true
  | .fsr _ _ _ _ => false
  | .fsrw _ _ _ _ => true
  | .shfl _ _ _ => false
  | .shflw _ _ _ => true
  | .unshfl _ _ _ => false
  | .unshflw _ _ _ => true
  | .xperm_n _ _ _ => false
  | .xperm_b _ _ _ => false
  | .xperm_h _ _ _ => false
  | .xperm_w _ _ _ => false
  | .bfp _ _ _ => false
  | .bfpw _ _ _ => true
  | .bcompress _ _ _ => false
  | .bdecompress _ _ _ => false
  | .crc32_b _ _ => false
  | .crc32_h _ _ => false
  | .crc32_w _ _ => false
  | .crc32_d _ _ => false
  | .crc32c_b _ _ => false
  | .crc32c_h _ _ => false
  | .crc32c_w _ _ => false
  | .crc32c_d _ _ => false
  | .bmatflip _ _ => false
  | .bmatxor _ _ _ => false
  | .bmator _ _ _ => false
  | .cmov _ _ _ _ => false

/-- The six functions that need a 64-bit operand (`30_encoding.md` R31 column "needs 64", R33 (b)). -/
def Instr.needs64 : Instr → Bool
  | .grev _ _ _ => false
  | .grevw _ _ _ => false
  | .gorc _ _ _ => false
  | .gorcw _ _ _ => false
  | .clmul _ _ _ => false
  | .clmulh _ _ _ => false
  | .clmulr _ _ _ => false
  | .fsl _ _ _ _ => false
  | .fslw _ _ _ _ => false
  | .fsr _ _ _ _ => false
  | .fsrw _ _ _ _ => false
  | .shfl _ _ _ => false
  | .shflw _ _ _ => false
  | .unshfl _ _ _ => false
  | .unshflw _ _ _ => false
  | .xperm_n _ _ _ => false
  | .xperm_b _ _ _ => false
  | .xperm_h _ _ _ => false
  | .xperm_w _ _ _ => true
  | .bfp _ _ _ => false
  | .bfpw _ _ _ => false
  | .bcompress _ _ _ => false
  | .bdecompress _ _ _ => false
  | .crc32_b _ _ => false
  | .crc32_h _ _ => false
  | .crc32_w _ _ => false
  | .crc32_d _ _ => true
  | .crc32c_b _ _ => false
  | .crc32c_h _ _ => false
  | .crc32c_w _ _ => false
  | .crc32c_d _ _ => true
  | .bmatflip _ _ => true
  | .bmatxor _ _ _ => true
  | .bmator _ _ _ => true
  | .cmov _ _ _ _ => false

/-- A narrow form exists only in a 64-bit build (`30_encoding.md` R33 (a)). -/
def Instr.narrowFits (x : Xlen) (i : Instr) : Bool := !i.isNarrow || x == .x64

/-- A function that needs a 64-bit operand exists only in a 64-bit build (`30_encoding.md` R33 (b)). -/
def Instr.widthFits (x : Xlen) (i : Instr) : Bool := !i.needs64 || x == .x64

/-- The build with native width `x` has the operation `i`: 35 operations at 64 bits, 22 at 32 (`30_encoding.md` R33). -/
def wellFormed (x : Xlen) (i : Instr) : Bool := i.narrowFits x && i.widthFits x

end Sys2Proof
end

