-- ==== Sys2Proof/Decode.lean ====
section
/-! DEFINITION. The encodings of the command set and the decoder, written from `30_encoding.md`: the table of function codes
(R31), the decode procedure (R38), total on every 32-bit word and rejecting by name, the encoder (R34), and the opcode table of
spec/opcode_table.json as match and mask (R35). -/

namespace Sys2Proof

/-! ### The table of function codes -/

/-- How many operands the function with code `func` reads (`30_encoding.md` R31, column "ops"). -/
def operandCount (func : Nat) : Nat :=
  if func = 0x05 ∨ func = 0x06 ∨ func = 0x1B then 3
  else if 0x10 ≤ func ∧ func ≤ 0x18 then 1
  else 2

/-- The function with code `func` has a narrow form (`30_encoding.md` R31, R32). -/
def hasNarrowForm (func : Nat) : Bool :=
  func == 0x00 || func == 0x01 || func == 0x05 || func == 0x06 || func == 0x07 || func == 0x08 || func == 0x0D

/-- The function with code `func` exists only when `XLEN = 64` (`30_encoding.md` R31, R33). -/
def needs64Bits (func : Nat) : Bool :=
  func == 0x0C || func == 0x13 || func == 0x17 || func == 0x18 || func == 0x19 || func == 0x1A

/-- The native operation with code `func` on the given register fields; a function ignores the fields it has no operand
for (`30_encoding.md` R31). The codes 0x1C to 0x1F name no function. -/
def nativeInstr (func : Nat) (rd rs1 rs2 rs3 : Reg) : Option Instr :=
  match func with
  | 0x00 => some (.grev rd rs1 rs2)
  | 0x01 => some (.gorc rd rs1 rs2)
  | 0x02 => some (.clmul rd rs1 rs2)
  | 0x03 => some (.clmulh rd rs1 rs2)
  | 0x04 => some (.clmulr rd rs1 rs2)
  | 0x05 => some (.fsl rd rs1 rs2 rs3)
  | 0x06 => some (.fsr rd rs1 rs2 rs3)
  | 0x07 => some (.shfl rd rs1 rs2)
  | 0x08 => some (.unshfl rd rs1 rs2)
  | 0x09 => some (.xperm_n rd rs1 rs2)
  | 0x0A => some (.xperm_b rd rs1 rs2)
  | 0x0B => some (.xperm_h rd rs1 rs2)
  | 0x0C => some (.xperm_w rd rs1 rs2)
  | 0x0D => some (.bfp rd rs1 rs2)
  | 0x0E => some (.bcompress rd rs1 rs2)
  | 0x0F => some (.bdecompress rd rs1 rs2)
  | 0x10 => some (.crc32_b rd rs1)
  | 0x11 => some (.crc32_h rd rs1)
  | 0x12 => some (.crc32_w rd rs1)
  | 0x13 => some (.crc32_d rd rs1)
  | 0x14 => some (.crc32c_b rd rs1)
  | 0x15 => some (.crc32c_h rd rs1)
  | 0x16 => some (.crc32c_w rd rs1)
  | 0x17 => some (.crc32c_d rd rs1)
  | 0x18 => some (.bmatflip rd rs1)
  | 0x19 => some (.bmatxor rd rs1 rs2)
  | 0x1A => some (.bmator rd rs1 rs2)
  | 0x1B => some (.cmov rd rs1 rs2 rs3)
  | _ => none

/-- The narrow operation with code `func` on the given register fields (`30_encoding.md` R32). -/
def narrowInstr (func : Nat) (rd rs1 rs2 rs3 : Reg) : Option Instr :=
  match func with
  | 0x00 => some (.grevw rd rs1 rs2)
  | 0x01 => some (.gorcw rd rs1 rs2)
  | 0x05 => some (.fslw rd rs1 rs2 rs3)
  | 0x06 => some (.fsrw rd rs1 rs2 rs3)
  | 0x07 => some (.shflw rd rs1 rs2)
  | 0x08 => some (.unshflw rd rs1 rs2)
  | 0x0D => some (.bfpw rd rs1 rs2)
  | _ => none

/-! ### Decoding -/

/-- Why a command word is reserved (`30_encoding.md` R36, R38). The sequencer raises the same fault for each reason, so
which one is named cannot be observed (`60_exceptions.md` R153; log entry 19). -/
inductive ReservedReason where
  /-- bits 11:6 are not zero -/
  | zeroField
  /-- `func` is 0x1C .. 0x1F -/
  | functionCode
  /-- `N = 1` on a function that has no narrow form -/
  | noNarrowForm
  /-- `N = 1` in a 32-bit build -/
  | narrowAt32
  /-- a function that needs 64 bits in a 32-bit build -/
  | needs64
  /-- `rs3f` is not zero on a function of one or two operands -/
  | rs3Field
  /-- `rs2f` is not zero on a function of one operand -/
  | rs2Field
  deriving DecidableEq, Repr

/-- The five-bit register field of `w` whose lowest bit is `lo` (`30_encoding.md` R34). -/
def regField (lo : Nat) (w : CommandWord) : Reg := (w.extractLsb' lo 5).toFin

/-- The function code of `w`, bits 4:0. -/
def funcField (w : CommandWord) : Nat := (w.extractLsb' 0 5).toNat

/-- The narrow flag of `w`, bit 5. -/
def narrowField (w : CommandWord) : Bool := w.getLsbD 5

/-- The tests of `30_encoding.md` R38 in the order it lists them: the reason `w` is reserved in a build of native width
`x`, or none. -/
def reservedReason (x : Xlen) (w : CommandWord) : Option ReservedReason :=
  if w.extractLsb' 6 6 ≠ 0 then some .zeroField
  else if funcField w > 0x1B then some .functionCode
  else if narrowField w ∧ ¬ hasNarrowForm (funcField w) then some .noNarrowForm
  else if narrowField w ∧ x = .x32 then some .narrowAt32
  else if x = .x32 ∧ needs64Bits (funcField w) then some .needs64
  else if operandCount (funcField w) ≤ 2 ∧ regField 27 w ≠ 0 then some .rs3Field
  else if operandCount (funcField w) = 1 ∧ regField 22 w ≠ 0 then some .rs2Field
  else none

/-- The operation that the function code and narrow flag of `w` select. -/
def selectInstr (w : CommandWord) : Option Instr :=
  if narrowField w then narrowInstr (funcField w) (regField 12 w) (regField 17 w) (regField 22 w) (regField 27 w)
  else nativeInstr (funcField w) (regField 12 w) (regField 17 w) (regField 22 w) (regField 27 w)

/-- The decode procedure, total on every 32-bit word (`30_encoding.md` R38). -/
def decode (x : Xlen) (w : CommandWord) : Except ReservedReason Instr :=
  match reservedReason x w with
  | some r => .error r
  | none =>
    match selectInstr w with
    | some i => .ok i
    | none => .error .functionCode

/-- `w` is reserved in a build of native width `x`: not accepted by the decode procedure (`30_encoding.md` R36). -/
def isReserved (x : Xlen) (w : CommandWord) : Bool :=
  match decode x w with
  | .ok _ => false
  | .error _ => true

/-! ### Encoding -/

/-- Format `C`, bit 31 first: `ttttt sssss rrrrr ddddd 000000 N fffff` (`30_encoding.md` R34). -/
def commandWord (rs3f rs2f rs1f rdf : Reg) (n : Bool) (func : BitVec 5) : CommandWord :=
  BitVec.ofFin (w := 5) rs3f ++ BitVec.ofFin (w := 5) rs2f ++ BitVec.ofFin (w := 5) rs1f ++
    BitVec.ofFin (w := 5) rdf ++ 0#6 ++ BitVec.ofBool n ++ func

/-- The command word of an operation; the fields it has no operand for are zero (`30_encoding.md` R31, R34, R35). -/
def encode : Instr → CommandWord
  | .grev rd rs1 rs2 => commandWord 0 rs2 rs1 rd false 0x00#5
  | .grevw rd rs1 rs2 => commandWord 0 rs2 rs1 rd true 0x00#5
  | .gorc rd rs1 rs2 => commandWord 0 rs2 rs1 rd false 0x01#5
  | .gorcw rd rs1 rs2 => commandWord 0 rs2 rs1 rd true 0x01#5
  | .clmul rd rs1 rs2 => commandWord 0 rs2 rs1 rd false 0x02#5
  | .clmulh rd rs1 rs2 => commandWord 0 rs2 rs1 rd false 0x03#5
  | .clmulr rd rs1 rs2 => commandWord 0 rs2 rs1 rd false 0x04#5
  | .fsl rd rs1 rs2 rs3 => commandWord rs3 rs2 rs1 rd false 0x05#5
  | .fslw rd rs1 rs2 rs3 => commandWord rs3 rs2 rs1 rd true 0x05#5
  | .fsr rd rs1 rs2 rs3 => commandWord rs3 rs2 rs1 rd false 0x06#5
  | .fsrw rd rs1 rs2 rs3 => commandWord rs3 rs2 rs1 rd true 0x06#5
  | .shfl rd rs1 rs2 => commandWord 0 rs2 rs1 rd false 0x07#5
  | .shflw rd rs1 rs2 => commandWord 0 rs2 rs1 rd true 0x07#5
  | .unshfl rd rs1 rs2 => commandWord 0 rs2 rs1 rd false 0x08#5
  | .unshflw rd rs1 rs2 => commandWord 0 rs2 rs1 rd true 0x08#5
  | .xperm_n rd rs1 rs2 => commandWord 0 rs2 rs1 rd false 0x09#5
  | .xperm_b rd rs1 rs2 => commandWord 0 rs2 rs1 rd false 0x0A#5
  | .xperm_h rd rs1 rs2 => commandWord 0 rs2 rs1 rd false 0x0B#5
  | .xperm_w rd rs1 rs2 => commandWord 0 rs2 rs1 rd false 0x0C#5
  | .bfp rd rs1 rs2 => commandWord 0 rs2 rs1 rd false 0x0D#5
  | .bfpw rd rs1 rs2 => commandWord 0 rs2 rs1 rd true 0x0D#5
  | .bcompress rd rs1 rs2 => commandWord 0 rs2 rs1 rd false 0x0E#5
  | .bdecompress rd rs1 rs2 => commandWord 0 rs2 rs1 rd false 0x0F#5
  | .crc32_b rd rs1 => commandWord 0 0 rs1 rd false 0x10#5
  | .crc32_h rd rs1 => commandWord 0 0 rs1 rd false 0x11#5
  | .crc32_w rd rs1 => commandWord 0 0 rs1 rd false 0x12#5
  | .crc32_d rd rs1 => commandWord 0 0 rs1 rd false 0x13#5
  | .crc32c_b rd rs1 => commandWord 0 0 rs1 rd false 0x14#5
  | .crc32c_h rd rs1 => commandWord 0 0 rs1 rd false 0x15#5
  | .crc32c_w rd rs1 => commandWord 0 0 rs1 rd false 0x16#5
  | .crc32c_d rd rs1 => commandWord 0 0 rs1 rd false 0x17#5
  | .bmatflip rd rs1 => commandWord 0 0 rs1 rd false 0x18#5
  | .bmatxor rd rs1 rs2 => commandWord 0 rs2 rs1 rd false 0x19#5
  | .bmator rd rs1 rs2 => commandWord 0 rs2 rs1 rd false 0x1A#5
  | .cmov rd rs1 rs2 rs3 => commandWord rs3 rs2 rs1 rd false 0x1B#5

/-! ### The opcode table as match and mask -/

/-- One row of the opcode table: the words `w` with `w &&& mask = value`; `at32` says whether a 32-bit build has it. -/
structure OpcodeRow where
  value : CommandWord
  mask  : CommandWord
  at32  : Bool
  deriving DecidableEq, Repr

/-- The 35 rows of spec/opcode_table.json, in its order (`30_encoding.md` R31, R33, R35). -/
def opcodeTable : List OpcodeRow :=
  [⟨0x00000000, 0xF8000FFF, true⟩,
   ⟨0x00000020, 0xF8000FFF, false⟩,
   ⟨0x00000001, 0xF8000FFF, true⟩,
   ⟨0x00000021, 0xF8000FFF, false⟩,
   ⟨0x00000002, 0xF8000FFF, true⟩,
   ⟨0x00000003, 0xF8000FFF, true⟩,
   ⟨0x00000004, 0xF8000FFF, true⟩,
   ⟨0x00000005, 0x00000FFF, true⟩,
   ⟨0x00000025, 0x00000FFF, false⟩,
   ⟨0x00000006, 0x00000FFF, true⟩,
   ⟨0x00000026, 0x00000FFF, false⟩,
   ⟨0x00000007, 0xF8000FFF, true⟩] ++
  [⟨0x00000027, 0xF8000FFF, false⟩,
   ⟨0x00000008, 0xF8000FFF, true⟩,
   ⟨0x00000028, 0xF8000FFF, false⟩,
   ⟨0x00000009, 0xF8000FFF, true⟩,
   ⟨0x0000000A, 0xF8000FFF, true⟩,
   ⟨0x0000000B, 0xF8000FFF, true⟩,
   ⟨0x0000000C, 0xF8000FFF, false⟩,
   ⟨0x0000000D, 0xF8000FFF, true⟩,
   ⟨0x0000002D, 0xF8000FFF, false⟩,
   ⟨0x0000000E, 0xF8000FFF, true⟩,
   ⟨0x0000000F, 0xF8000FFF, true⟩,
   ⟨0x00000010, 0xFFC00FFF, true⟩] ++
  [⟨0x00000011, 0xFFC00FFF, true⟩,
   ⟨0x00000012, 0xFFC00FFF, true⟩,
   ⟨0x00000013, 0xFFC00FFF, false⟩,
   ⟨0x00000014, 0xFFC00FFF, true⟩,
   ⟨0x00000015, 0xFFC00FFF, true⟩,
   ⟨0x00000016, 0xFFC00FFF, true⟩,
   ⟨0x00000017, 0xFFC00FFF, false⟩,
   ⟨0x00000018, 0xFFC00FFF, false⟩,
   ⟨0x00000019, 0xF8000FFF, false⟩,
   ⟨0x0000001A, 0xF8000FFF, false⟩,
   ⟨0x0000001B, 0x00000FFF, true⟩]

/-! ### The host's view of the decoder -/

/-- The instruction the decoder of the 64-bit build reads from the word `w`; a command is one word of 32 bits
(`30_encoding.md` R34), so bits at and above `nbits` are zero (log entry 15). -/
def decodeTableWord (nbits w : Nat) : Option Instr :=
  match decode .x64 (BitVec.ofNat 32 (w % 2 ^ nbits)) with
  | .ok i => some i
  | .error _ => none

end Sys2Proof
end

