-- ==== Sys2Proof/Machine/State.lean ====
section
/-! DEFINITION. The state of the reference sequencer (`10_state.md` section 2), the reasons a step can stop, and reset.
The block has no state (R10); there is no memory (`20_memory.md` R20, R21), no flag (R13) and no control register (R14),
so State has no field for any of them. -/

namespace Sys2Proof.Machine

/-- The causes of a fault: one only (`60_exceptions.md` R151). -/
inductive Cause where
  | reservedCommand
  deriving DecidableEq, Repr

/-- The cause code that a fault record holds: 1, the only code (`60_exceptions.md` R151). -/
def Cause.code : Cause → Nat
  | .reservedCommand => 1

/-- The status of the sequencer (`10_state.md` R19). -/
inductive Status where
  | running
  | halted
  | faulted (cause : Cause) (pc : Nat) (word : CommandWord)
  deriving DecidableEq, Repr

/-- The register file `x[0]` .. `x[31]` (`10_state.md` R17). Each entry holds `XLEN` bits, in the low bits of the stored
word (log entry 10). -/
abbrev RegFile := Vector Word 32

/-- Everything a step depends on. `regs`, `pc` and `status` are the sequencer's state (`10_state.md` R17 to R19); `cfg` and
`program` are parameters of the step relation, fixed for a run (`00_scope.md` R4, `20_memory.md` R26), which stand here
because `step` has no other argument (log entries 1 and 6). -/
structure State where
  cfg     : Config
  program : List CommandWord
  regs    : RegFile
  pc      : Nat
  status  : Status
  deriving DecidableEq, Repr

/-- The stuck states: the sequencer has no next step (`93_implementation_defined.md` U7). Both are safe: the spec gives
these states no successor either. -/
inductive Fault where
  /-- Raised by `step` on a halted sequencer; halted is absorbing (`10_state.md` R19). Safe. -/
  | stuckHalted
  /-- Raised by `step` on a faulted sequencer; faulted is absorbing (`60_exceptions.md` R155). Safe. -/
  | stuckFaulted
  deriving DecidableEq, Repr

/-- What the model gives no meaning to. -/
inductive Refusal where
  /-- Raised by an arm of `exec` whose instruction has no meaning yet; no arm raises it. Safe. -/
  | notModelled (mnemonic : String)
  /-- Raised by `step` when `pc` lies beyond the end of the program, where the spec has no command word
  (`93_implementation_defined.md` U10: refuse, does not arise). No run reaches such a state. Safe (log entry 7). -/
  | noProgramWord (pc : Nat)
  deriving DecidableEq, Repr

/-- The start state of a run: the environment supplies the program and the register file (`70_reset_and_hazards.md` R172);
`pc` and `status` have their reset values (R171). -/
def State.launch (cfg : Config) (program : List CommandWord) (regs : RegFile) : State :=
  { cfg := cfg, program := program, regs := regs, pc := 0, status := .running }

/-- The machine right after reset with nothing supplied (`10_state.md` section 3): `pc` 0, `status` running, the empty
program (log entry 6), the reference build (log entries 2 to 4).
DESIGN CHOICE, unsafe: the spec leaves the registers unspecified (R171); they are zero here (log entry 5). -/
def State.reset : State := State.launch Config.reference [] (Vector.replicate 32 0)

end Sys2Proof.Machine
end

