-- ==== Sys2Proof/Machine/Ops.lean ====
section
/-! DEFINITION. The named operations of the sequencer over its state: reading and writing a register, completing a command
(`30_encoding.md` R42), taking the one exception (`60_exceptions.md` R154), fetching, ending a run
(`70_reset_and_hazards.md` R176) and the acts of the environment. There is no return from the exception (R155). -/

namespace Sys2Proof.Machine

/-! ### Registers -/

/-- Keep the `XLEN` bits a register or a port of the build has (`10_state.md` R12, R17). -/
def toXlen (x : Xlen) (v : Word) : Word := (v.setWidth x.bits).setWidth 64

/-- The value of register `r` (`10_state.md` R17). No register is hardwired. -/
def State.readReg (s : State) (r : Reg) : Word := s.regs[r]

/-- `x[r] <- v`, keeping the `XLEN` bits a register has (`10_state.md` R17). No register discards a write. -/
def State.writeReg (s : State) (r : Reg) (v : Word) : State :=
  { s with regs := s.regs.set r (toXlen s.cfg.xlen v) }

/-- `pc <- pc + 1` (`10_state.md` R18). -/
def State.advancePc (s : State) : State := { s with pc := s.pc + 1 }

/-! ### The two ways a command ends -/

/-- A command completes: the result is written to the destination register and `pc` advances by one; nothing else changes
(`30_encoding.md` R42). -/
def completeCommand (rd : Reg) (res : Word) (s : State) : Host.Outcome State Fault Refusal :=
  .next (s.writeReg rd res).advancePc

/-- `raise ReservedCommand(pc, w)`: the only change is `status <- faulted(1, pc, w)` (`60_exceptions.md` R151, R154). -/
def raiseReserved (w : CommandWord) (s : State) : State :=
  { s with status := .faulted .reservedCommand s.pc w }

/-- What an operation that exists only in a 64-bit build does: its effect `k` there; in a 32-bit build its command word is
reserved (`30_encoding.md` R33), so the sequencer takes `ReservedCommand` on that word (log entry 9). -/
def require64 (i : Instr) (s : State) (k : Host.Outcome State Fault Refusal) : Host.Outcome State Fault Refusal :=
  match s.cfg.xlen with
  | .x64 => k
  | .x32 => .next (raiseReserved (encode i) s)

/-! ### Fetch and the end of a run -/

/-- What stands at `pc`: a command word, the end of the program, or nothing. -/
inductive Fetched where
  | word (w : CommandWord)
  | atEnd
  | beyond
  deriving DecidableEq, Repr

/-- Fetch at `pc` (`30_encoding.md` R42). -/
def State.fetch (s : State) : Fetched :=
  match s.program[s.pc]? with
  | some w => .word w
  | none => if s.pc = s.program.length then .atEnd else .beyond

/-- The end of the program is reached: `status <- halted` (`70_reset_and_hazards.md` R176 (a)). -/
def haltRun (s : State) : State := { s with status := .halted }

/-! ### The environment -/

/-- Reset of the sequencer: `pc <- 0`, `status <- running`, any fault record discarded. The registers are unspecified
afterwards, so their values are an argument (`70_reset_and_hazards.md` R171; log entry 13). The program and the build
stand. -/
def resetSequencer (regs : RegFile) (s : State) : State :=
  { s with regs := regs, pc := 0, status := .running }

/-- The program with `w` as its word number `n`: words before and after keep their places; a place that the program did not
reach is filled with the all-zero word. -/
def placeWord (program : List CommandWord) (n : Nat) (w : CommandWord) : List CommandWord :=
  program.take n ++ List.replicate (n - program.length) 0 ++ [w] ++ program.drop (n + 1)

end Sys2Proof.Machine
end

