-- ==== Sys2Proof/Machine/Operands.lean ====
section
/-! DEFINITION. The operand forms and result forms of the block (`30_encoding.md` R32, R41, R43, R44): every operand is a
register value cut to the operand width `W`; the `W`-bit result is widened to the port. No function sets or reads a flag
(`10_state.md` R13), so the model has no file of flag computations. -/

namespace Sys2Proof.Machine

/-- `trunc_W(v)`: the operand of width `W` on a port that carries `v` (`30_encoding.md` R43). -/
def truncOperand (W : Nat) (v : Word) : BitVec W := v.setWidth W

/-- `RES` of a native operation: the `XLEN`-bit result itself (`30_encoding.md` R44, `N = 0`). -/
def extendNative {W : Nat} (r : BitVec W) : Word := r.setWidth 64

/-- `RES` of a narrow operation: the 32-bit result widened by `NARROW_EXT` (`30_encoding.md` R44, `N = 1`). -/
def extendNarrow (e : NarrowExt) (r : BitVec 32) : Word :=
  match e with
  | .sign => r.signExtend 64
  | .zero => r.setWidth 64

/-! A native operation works at `W = XLEN` (`30_encoding.md` R32). -/

/-- A native function of one operand. -/
def native1 (x : Xlen) (f : (W : Nat) → BitVec W → BitVec W) (va : Word) : Word :=
  extendNative (f x.bits (truncOperand x.bits va))

/-- A native function of two operands. -/
def native2 (x : Xlen) (f : (W : Nat) → BitVec W → BitVec W → BitVec W) (va vb : Word) : Word :=
  extendNative (f x.bits (truncOperand x.bits va) (truncOperand x.bits vb))

/-- A native function of three operands. -/
def native3 (x : Xlen) (f : (W : Nat) → BitVec W → BitVec W → BitVec W → BitVec W) (va vb vc : Word) : Word :=
  extendNative (f x.bits (truncOperand x.bits va) (truncOperand x.bits vb) (truncOperand x.bits vc))

/-! A narrow operation works at `W = 32` (`30_encoding.md` R32; `00_scope.md` R7). -/

/-- A narrow function of two operands. -/
def narrow2 (e : NarrowExt) (f : (W : Nat) → BitVec W → BitVec W → BitVec W) (va vb : Word) : Word :=
  extendNarrow e (f 32 (truncOperand 32 va) (truncOperand 32 vb))

/-- A narrow function of three operands. -/
def narrow3 (e : NarrowExt) (f : (W : Nat) → BitVec W → BitVec W → BitVec W → BitVec W) (va vb vc : Word) : Word :=
  extendNarrow e (f 32 (truncOperand 32 va) (truncOperand 32 vb) (truncOperand 32 vc))

end Sys2Proof.Machine
end

