-- ==== Sys2Proof/Machine/ShuffleNetwork.lean ====
section
/-! DEFINITION. The ShuffleNetwork family (`43_shuffle.md`): the perfect-shuffle network. The masks, the movement of one
stage and the order of the stages are the spec's, which it marks as general knowledge (GK2; log entry 12). -/

namespace Sys2Proof.Machine

/-- The shuffle masks `SHL(2^j)` as 64-bit constants (`43_shuffle.md` R80); there is no stage above 16. -/
def shuffleMask : Nat → Nat
  | 0 => 0x4444444444444444
  | 1 => 0x3030303030303030
  | 2 => 0x0F000F000F000F00
  | 3 => 0x00FF000000FF0000
  | 4 => 0x0000FFFF00000000
  | _ => 0

/-- `SHL_W(2^j)` (`43_shuffle.md` R80). -/
def shuffleLeft (W j : Nat) : BitVec W := BitVec.ofNat W (shuffleMask j)

/-- `SHR_W(2^j)`, from `SHR(n) = SHL(n) >> n` (`43_shuffle.md` R80). -/
def shuffleRight (W j : Nat) : BitVec W := BitVec.ofNat W (shuffleMask j >>> (2 ^ j))

/-- `stage_W(x, 2^j)`: exchange the two middle quarters of every aligned block of `4 * 2^j` bits (`43_shuffle.md` R81). -/
def shuffleStage {W : Nat} (x : BitVec W) (j : Nat) : BitVec W :=
  (x &&& ~~~(shuffleLeft W j ||| shuffleRight W j)) |||
    ((x <<< (2 ^ j)) &&& shuffleLeft W j) ||| ((x >>> (2 ^ j)) &&& shuffleRight W j)

/-- The control value `k = b mod (W/2)` (`43_shuffle.md` R82). -/
def shuffleControl {W : Nat} (b : BitVec W) : Nat := b.toNat % (W / 2)

/-- `shfl_W(a, b)`: largest stage first (`43_shuffle.md` R82). -/
def shfl (W : Nat) (a b : BitVec W) : BitVec W :=
  (List.range (Nat.log2 W - 1)).reverse.foldl
    (fun x j => if (shuffleControl b).testBit j then shuffleStage x j else x) a

/-- `unshfl_W(a, b)`: smallest stage first (`43_shuffle.md` R83). -/
def unshfl (W : Nat) (a b : BitVec W) : BitVec W :=
  (List.range (Nat.log2 W - 1)).foldl
    (fun x j => if (shuffleControl b).testBit j then shuffleStage x j else x) a

/-- `shfl` (`43_shuffle.md` R82). -/
def execShfl (rd rs1 rs2 : Reg) (s : State) : Host.Outcome State Fault Refusal :=
  completeCommand rd (native2 s.cfg.xlen shfl (s.readReg rs1) (s.readReg rs2)) s

/-- `shflw` (`43_shuffle.md` R84). -/
def execShflw (rd rs1 rs2 : Reg) (s : State) : Host.Outcome State Fault Refusal :=
  require64 (.shflw rd rs1 rs2) s <|
    completeCommand rd (narrow2 s.cfg.narrowExt shfl (s.readReg rs1) (s.readReg rs2)) s

/-- `unshfl` (`43_shuffle.md` R83). -/
def execUnshfl (rd rs1 rs2 : Reg) (s : State) : Host.Outcome State Fault Refusal :=
  completeCommand rd (native2 s.cfg.xlen unshfl (s.readReg rs1) (s.readReg rs2)) s

/-- `unshflw` (`43_shuffle.md` R85). -/
def execUnshflw (rd rs1 rs2 : Reg) (s : State) : Host.Outcome State Fault Refusal :=
  require64 (.unshflw rd rs1 rs2) s <|
    completeCommand rd (narrow2 s.cfg.narrowExt unshfl (s.readReg rs1) (s.readReg rs2)) s

end Sys2Proof.Machine
end

