-- ==== Sys2Proof/Machine/BitMatrix.lean ====
section
/-! DEFINITION. The BitMatrix family (`48_bitmatrix.md`): the 8x8 bit-matrix unit, 64-bit builds only. -/

namespace Sys2Proof.Machine

/-- Row `r` of the matrix `v` is byte `r` (`48_bitmatrix.md` R130). -/
def matrixRow (v : BitVec 64) (r : Nat) : BitVec 8 := v.extractLsb' (8 * r) 8

/-- `popcount(v)` (`00_scope.md` section 6.2). -/
def popcount {W : Nat} (v : BitVec W) : Nat := (List.range W).countP fun i => v.getLsbD i

/-- The matrix whose element in row `row`, column `col` is `f row col`: bit `8 * row + col` (`48_bitmatrix.md` R130). -/
def matrixOf (f : Nat → Nat → Bool) : BitVec 64 :=
  (List.range 8).foldl
    (fun r row =>
      (List.range 8).foldl (fun r col => if f row col then r ||| (1#64 <<< (8 * row + col)) else r) r) 0

/-- `bmatflip(a)`: three full shuffles (`48_bitmatrix.md` R131). -/
def bmatflip (a : BitVec 64) : BitVec 64 := shfl 64 (shfl 64 (shfl 64 a 31) 31) 31

/-- The bytes whose AND decides element (`row`, `col`) of a product: row `row` of `a` and row `col` of the transposed `b`
(`48_bitmatrix.md` R132). -/
def rowAndColumn (a b : BitVec 64) (row col : Nat) : BitVec 8 := matrixRow a row &&& matrixRow (bmatflip b) col

/-- `bmatxor(a, b)` (`48_bitmatrix.md` R132). -/
def bmatxor (a b : BitVec 64) : BitVec 64 := matrixOf fun row col => popcount (rowAndColumn a b row col) % 2 == 1

/-- `bmator(a, b)` (`48_bitmatrix.md` R133). -/
def bmator (a b : BitVec 64) : BitVec 64 := matrixOf fun row col => rowAndColumn a b row col != 0

/-- `bmatflip` (`48_bitmatrix.md` R131). -/
def execBmatflip (rd rs1 : Reg) (s : State) : Host.Outcome State Fault Refusal :=
  require64 (.bmatflip rd rs1) s <| completeCommand rd (bmatflip (s.readReg rs1)) s

/-- `bmatxor` (`48_bitmatrix.md` R132). -/
def execBmatxor (rd rs1 rs2 : Reg) (s : State) : Host.Outcome State Fault Refusal :=
  require64 (.bmatxor rd rs1 rs2) s <| completeCommand rd (bmatxor (s.readReg rs1) (s.readReg rs2)) s

/-- `bmator` (`48_bitmatrix.md` R133). -/
def execBmator (rd rs1 rs2 : Reg) (s : State) : Host.Outcome State Fault Refusal :=
  require64 (.bmator rd rs1 rs2) s <| completeCommand rd (bmator (s.readReg rs1) (s.readReg rs2)) s

end Sys2Proof.Machine
end

