-- ==== Sys2Proof/Machine/BitPermute.lean ====
section
/-! DEFINITION. The BitPermute family (`40_bitpermute.md`): the butterfly network of `grev` and `gorc`. -/

namespace Sys2Proof.Machine

/-- The adjacency masks `ADJ(2^j)` as 64-bit constants (`40_bitpermute.md` R50); there is no stage above 32. -/
def adjacencyMask : Nat → Nat
  | 0 => 0x5555555555555555
  | 1 => 0x3333333333333333
  | 2 => 0x0F0F0F0F0F0F0F0F
  | 3 => 0x00FF00FF00FF00FF
  | 4 => 0x0000FFFF0000FFFF
  | 5 => 0x00000000FFFFFFFF
  | _ => 0

/-- `ADJ_W(2^j)` (`40_bitpermute.md` R50). -/
def adjacency (W j : Nat) : BitVec W := BitVec.ofNat W (adjacencyMask j)

/-- `swap_W(x, 2^j)`: exchange the halves of every aligned block of `2^(j+1)` bits (`40_bitpermute.md` R51). -/
def swapStage {W : Nat} (x : BitVec W) (j : Nat) : BitVec W :=
  ((x &&& adjacency W j) <<< (2 ^ j)) ||| ((x >>> (2 ^ j)) &&& adjacency W j)

/-- `merge_W(x, 2^j)`: OR each half into the other (`40_bitpermute.md` R51). -/
def mergeStage {W : Nat} (x : BitVec W) (j : Nat) : BitVec W := x ||| swapStage x j

/-- `grev_W(a, b)` (`40_bitpermute.md` R52). -/
def grev (W : Nat) (a b : BitVec W) : BitVec W :=
  (List.range (Nat.log2 W)).foldl (fun x j => if b.getLsbD j then swapStage x j else x) a

/-- `gorc_W(a, b)` (`40_bitpermute.md` R54). -/
def gorc (W : Nat) (a b : BitVec W) : BitVec W :=
  (List.range (Nat.log2 W)).foldl (fun x j => if b.getLsbD j then mergeStage x j else x) a

/-- `grev` (`40_bitpermute.md` R52). -/
def execGrev (rd rs1 rs2 : Reg) (s : State) : Host.Outcome State Fault Refusal :=
  completeCommand rd (native2 s.cfg.xlen grev (s.readReg rs1) (s.readReg rs2)) s

/-- `grevw` (`40_bitpermute.md` R53). -/
def execGrevw (rd rs1 rs2 : Reg) (s : State) : Host.Outcome State Fault Refusal :=
  require64 (.grevw rd rs1 rs2) s <|
    completeCommand rd (narrow2 s.cfg.narrowExt grev (s.readReg rs1) (s.readReg rs2)) s

/-- `gorc` (`40_bitpermute.md` R54). -/
def execGorc (rd rs1 rs2 : Reg) (s : State) : Host.Outcome State Fault Refusal :=
  completeCommand rd (native2 s.cfg.xlen gorc (s.readReg rs1) (s.readReg rs2)) s

/-- `gorcw` (`40_bitpermute.md` R55). -/
def execGorcw (rd rs1 rs2 : Reg) (s : State) : Host.Outcome State Fault Refusal :=
  require64 (.gorcw rd rs1 rs2) s <|
    completeCommand rd (narrow2 s.cfg.narrowExt gorc (s.readReg rs1) (s.readReg rs2)) s

end Sys2Proof.Machine
end

