-- ==== Sys2Proof/Machine/CRCKernel.lean ====
section
/-! DEFINITION. The CRCKernel family (`47_crc.md`): the bit-serial CRC engine. -/

namespace Sys2Proof.Machine

/-- The reversed CRC-32 polynomial `POLY32` (`47_crc.md` R120). -/
def polyCrc32 : BitVec 32 := 0xEDB88320

/-- The reversed CRC-32C polynomial `POLY32C` (`47_crc.md` R120). -/
def polyCrc32c : BitVec 32 := 0x82F63B78

/-- One iteration: shift right by one; if the bit shifted out was 1, XOR the polynomial into bits 31:0 (`47_crc.md` R120). -/
def crcStep (poly : BitVec 32) {W : Nat} (x : BitVec W) : BitVec W :=
  if x.getLsbD 0 then (x >>> 1) ^^^ poly.setWidth W else x >>> 1

/-- `crc_W(a, nbits, poly)`: the whole `W`-bit operand seeds the accumulator (`47_crc.md` R120). -/
def crc (nbits : Nat) (poly : BitVec 32) (W : Nat) (a : BitVec W) : BitVec W :=
  match nbits with
  | 0 => a
  | n + 1 => crc n poly W (crcStep poly a)

/-- `crc32_b` (`47_crc.md` R121): 8 iterations. -/
def execCrc32B (rd rs1 : Reg) (s : State) : Host.Outcome State Fault Refusal :=
  completeCommand rd (native1 s.cfg.xlen (crc 8 polyCrc32) (s.readReg rs1)) s

/-- `crc32_h` (`47_crc.md` R122): 16 iterations. -/
def execCrc32H (rd rs1 : Reg) (s : State) : Host.Outcome State Fault Refusal :=
  completeCommand rd (native1 s.cfg.xlen (crc 16 polyCrc32) (s.readReg rs1)) s

/-- `crc32_w` (`47_crc.md` R123): 32 iterations. -/
def execCrc32W (rd rs1 : Reg) (s : State) : Host.Outcome State Fault Refusal :=
  completeCommand rd (native1 s.cfg.xlen (crc 32 polyCrc32) (s.readReg rs1)) s

/-- `crc32_d` (`47_crc.md` R124): 64 iterations, 64-bit builds only. -/
def execCrc32D (rd rs1 : Reg) (s : State) : Host.Outcome State Fault Refusal :=
  require64 (.crc32_d rd rs1) s <| completeCommand rd (crc 64 polyCrc32 64 (s.readReg rs1)) s

/-- `crc32c_b` (`47_crc.md` R125): 8 iterations. -/
def execCrc32cB (rd rs1 : Reg) (s : State) : Host.Outcome State Fault Refusal :=
  completeCommand rd (native1 s.cfg.xlen (crc 8 polyCrc32c) (s.readReg rs1)) s

/-- `crc32c_h` (`47_crc.md` R126): 16 iterations. -/
def execCrc32cH (rd rs1 : Reg) (s : State) : Host.Outcome State Fault Refusal :=
  completeCommand rd (native1 s.cfg.xlen (crc 16 polyCrc32c) (s.readReg rs1)) s

/-- `crc32c_w` (`47_crc.md` R127): 32 iterations. -/
def execCrc32cW (rd rs1 : Reg) (s : State) : Host.Outcome State Fault Refusal :=
  completeCommand rd (native1 s.cfg.xlen (crc 32 polyCrc32c) (s.readReg rs1)) s

/-- `crc32c_d` (`47_crc.md` R128): 64 iterations, 64-bit builds only. -/
def execCrc32cD (rd rs1 : Reg) (s : State) : Host.Outcome State Fault Refusal :=
  require64 (.crc32c_d rd rs1) s <| completeCommand rd (crc 64 polyCrc32c 64 (s.readReg rs1)) s

end Sys2Proof.Machine
end

