-- ==== Sys2Proof/Machine/CarrylessMul.lean ====
section
/-! DEFINITION. The CarrylessMul family (`41_carryless_mul.md`): the GF(2) polynomial multiplier. -/

namespace Sys2Proof.Machine

/-- The full carry-less product `P(a, b)`, in `2W` bits of which the top one is always 0 (`41_carryless_mul.md` R60). -/
def carrylessProduct (W : Nat) (a b : BitVec W) : BitVec (2 * W) :=
  (List.range W).foldl (fun x i => if b.getLsbD i then x ^^^ (a.setWidth (2 * W) <<< i) else x) 0

/-- `clmul_W(a, b)`: start index 0 (`41_carryless_mul.md` R61). -/
def clmul (W : Nat) (a b : BitVec W) : BitVec W :=
  (List.range W).foldl (fun x i => if b.getLsbD i then x ^^^ (a <<< i) else x) 0

/-- `clmulh_W(a, b)`: start index 1 (`41_carryless_mul.md` R62). -/
def clmulh (W : Nat) (a b : BitVec W) : BitVec W :=
  (List.range' 1 (W - 1)).foldl (fun x i => if b.getLsbD i then x ^^^ (a >>> (W - i)) else x) 0

/-- `clmulr_W(a, b)`: start index 0 (`41_carryless_mul.md` R63). -/
def clmulr (W : Nat) (a b : BitVec W) : BitVec W :=
  (List.range W).foldl (fun x i => if b.getLsbD i then x ^^^ (a >>> (W - i - 1)) else x) 0

/-- `clmul` (`41_carryless_mul.md` R61). -/
def execClmul (rd rs1 rs2 : Reg) (s : State) : Host.Outcome State Fault Refusal :=
  completeCommand rd (native2 s.cfg.xlen clmul (s.readReg rs1) (s.readReg rs2)) s

/-- `clmulh` (`41_carryless_mul.md` R62). -/
def execClmulh (rd rs1 rs2 : Reg) (s : State) : Host.Outcome State Fault Refusal :=
  completeCommand rd (native2 s.cfg.xlen clmulh (s.readReg rs1) (s.readReg rs2)) s

/-- `clmulr` (`41_carryless_mul.md` R63). -/
def execClmulr (rd rs1 rs2 : Reg) (s : State) : Host.Outcome State Fault Refusal :=
  completeCommand rd (native2 s.cfg.xlen clmulr (s.readReg rs1) (s.readReg rs2)) s

end Sys2Proof.Machine
end

