-- ==== Sys2Proof/Machine/CompressDecompress.lean ====
section
/-! DEFINITION. The CompressDecompress family (`46_compress.md`): mask-directed gather and scatter. -/

namespace Sys2Proof.Machine

/-- One position of the mask walk of `bcompress`: the result so far and the number `j` of mask bits met
(`46_compress.md` R110, R111). -/
def gatherBit {W : Nat} (a m : BitVec W) (acc : BitVec W × Nat) (i : Nat) : BitVec W × Nat :=
  if m.getLsbD i then (if a.getLsbD i then acc.1 ||| (1#W <<< acc.2) else acc.1, acc.2 + 1) else acc

/-- One position of the mask walk of `bdecompress` (`46_compress.md` R110, R112). -/
def scatterBit {W : Nat} (a m : BitVec W) (acc : BitVec W × Nat) (i : Nat) : BitVec W × Nat :=
  if m.getLsbD i then (if a.getLsbD acc.2 then acc.1 ||| (1#W <<< i) else acc.1, acc.2 + 1) else acc

/-- `bcompress_W(a, m)` (`46_compress.md` R111). -/
def bcompress (W : Nat) (a m : BitVec W) : BitVec W := ((List.range W).foldl (gatherBit a m) (0, 0)).1

/-- `bdecompress_W(a, m)` (`46_compress.md` R112). -/
def bdecompress (W : Nat) (a m : BitVec W) : BitVec W := ((List.range W).foldl (scatterBit a m) (0, 0)).1

/-- `bcompress` (`46_compress.md` R111). -/
def execBcompress (rd rs1 rs2 : Reg) (s : State) : Host.Outcome State Fault Refusal :=
  completeCommand rd (native2 s.cfg.xlen bcompress (s.readReg rs1) (s.readReg rs2)) s

/-- `bdecompress` (`46_compress.md` R112). -/
def execBdecompress (rd rs1 rs2 : Reg) (s : State) : Host.Outcome State Fault Refusal :=
  completeCommand rd (native2 s.cfg.xlen bdecompress (s.readReg rs1) (s.readReg rs2)) s

end Sys2Proof.Machine
end

