-- ==== Sys2Proof/Machine/CrossbarPermute.lean ====
section
/-! DEFINITION. The CrossbarPermute family (`44_crossbar.md`): the bit-group crossbar. -/

namespace Sys2Proof.Machine

/-- The bit position in the data operand that destination group `i` is read from: the whole group `i` of `b` as an index,
scaled by the group size `sz` (`44_crossbar.md` R90). -/
def xpermSource {W : Nat} (sz : Nat) (b : BitVec W) (i : Nat) : Nat := (b.extractLsb' (sz * i) sz).toNat * sz

/-- `xperm_W(a, b, g)` with groups of `2^g` bits; a position at or beyond `W` gives a zero group (`44_crossbar.md` R90). -/
def xperm (g W : Nat) (a b : BitVec W) : BitVec W :=
  (List.range (W / 2 ^ g)).foldl
    (fun r i =>
      if xpermSource (2 ^ g) b i < W then
        r ||| ((a.extractLsb' (xpermSource (2 ^ g) b i) (2 ^ g)).setWidth W <<< (2 ^ g * i))
      else r) 0

/-- `xperm_n` (`44_crossbar.md` R91): 4-bit groups. -/
def execXpermN (rd rs1 rs2 : Reg) (s : State) : Host.Outcome State Fault Refusal :=
  completeCommand rd (native2 s.cfg.xlen (xperm 2) (s.readReg rs1) (s.readReg rs2)) s

/-- `xperm_b` (`44_crossbar.md` R92): 8-bit groups. -/
def execXpermB (rd rs1 rs2 : Reg) (s : State) : Host.Outcome State Fault Refusal :=
  completeCommand rd (native2 s.cfg.xlen (xperm 3) (s.readReg rs1) (s.readReg rs2)) s

/-- `xperm_h` (`44_crossbar.md` R93): 16-bit groups. -/
def execXpermH (rd rs1 rs2 : Reg) (s : State) : Host.Outcome State Fault Refusal :=
  completeCommand rd (native2 s.cfg.xlen (xperm 4) (s.readReg rs1) (s.readReg rs2)) s

/-- `xperm_w` (`44_crossbar.md` R94): 32-bit groups, 64-bit builds only. -/
def execXpermW (rd rs1 rs2 : Reg) (s : State) : Host.Outcome State Fault Refusal :=
  require64 (.xperm_w rd rs1 rs2) s <|
    completeCommand rd (xperm 5 64 (s.readReg rs1) (s.readReg rs2)) s

end Sys2Proof.Machine
end

