-- ==== Sys2Proof/Machine/FieldPlace.lean ====
section
/-! DEFINITION. The FieldPlace family (`45_fieldplace.md`): variable bit-field insertion. -/

namespace Sys2Proof.Machine

/-- The control word `cfg`: the upper half of `b`, shifted right by 16 when bits 31:30 of it hold the tag 2
(`45_fieldplace.md` R100). -/
def bfpControl {W : Nat} (b : BitVec W) : Nat :=
  if (b.toNat >>> (W / 2)) >>> 30 = 2 then (b.toNat >>> (W / 2)) >>> 16 else b.toNat >>> (W / 2)

/-- The field `off` (`45_fieldplace.md` R101). -/
def bfpOffset {W : Nat} (b : BitVec W) : Nat := bfpControl b % W

/-- The field `len`, which starts at bit `lsb` of the control word; 0 means `W/2` (`45_fieldplace.md` R101). -/
def bfpLength (lsb : Nat) {W : Nat} (b : BitVec W) : Nat :=
  if (bfpControl b >>> lsb) % (W / 2) = 0 then W / 2 else (bfpControl b >>> lsb) % (W / 2)

/-- `trunc_W(ones(len) << off)` (`45_fieldplace.md` R102). -/
def bfpMask (lsb : Nat) {W : Nat} (b : BitVec W) : BitVec W :=
  BitVec.ofNat W (2 ^ bfpLength lsb b - 1) <<< bfpOffset b

/-- `bfp_W(a, b)` (`45_fieldplace.md` R102). -/
def bfp (lsb W : Nat) (a b : BitVec W) : BitVec W :=
  ((b <<< bfpOffset b) &&& bfpMask lsb b) ||| (a &&& ~~~(bfpMask lsb b))

/-- `bfp` (`45_fieldplace.md` R102). -/
def execBfp (rd rs1 rs2 : Reg) (s : State) : Host.Outcome State Fault Refusal :=
  completeCommand rd (native2 s.cfg.xlen (bfp s.cfg.bfpLenLsbNative) (s.readReg rs1) (s.readReg rs2)) s

/-- `bfpw` (`45_fieldplace.md` R103). -/
def execBfpw (rd rs1 rs2 : Reg) (s : State) : Host.Outcome State Fault Refusal :=
  require64 (.bfpw rd rs1 rs2) s <|
    completeCommand rd (narrow2 s.cfg.narrowExt (bfp s.cfg.bfpLenLsb32) (s.readReg rs1) (s.readReg rs2)) s

end Sys2Proof.Machine
end

