-- ==== Sys2Proof/Machine/FunnelShift.lean ====
section
/-! DEFINITION. The FunnelShift family (`42_funnel_shift.md`): the cross-operand shifter. -/

namespace Sys2Proof.Machine

/-- The last two lines of `funnel_W`: shift `hi` left by `sh`, filling from the top of `lo`; a shift of zero gives the
unshifted high operand (`42_funnel_shift.md` R70). -/
def funnelHigh {W : Nat} (hi lo : BitVec W) (sh : Nat) : BitVec W :=
  if sh = 0 then hi else (hi <<< sh) ||| (lo >>> (W - sh))

/-- `funnel_W(a, sh, c)`: the operands swap at the threshold `W` (`42_funnel_shift.md` R70). -/
def funnel (W : Nat) (a : BitVec W) (sh : Nat) (c : BitVec W) : BitVec W :=
  if W ≤ sh then funnelHigh c a (sh - W) else funnelHigh a c sh

/-- `fsl_W(a, b, c)` (`42_funnel_shift.md` R71). -/
def fsl (W : Nat) (a b c : BitVec W) : BitVec W := funnel W a (b.toNat % (2 * W)) c

/-- `fsr_W(a, b, c)`: the amount is negated modulo `2W` (`42_funnel_shift.md` R72). -/
def fsr (W : Nat) (a b c : BitVec W) : BitVec W := funnel W a ((2 * W - b.toNat % (2 * W)) % (2 * W)) c

/-- `fsl` (`42_funnel_shift.md` R71). -/
def execFsl (rd rs1 rs2 rs3 : Reg) (s : State) : Host.Outcome State Fault Refusal :=
  completeCommand rd (native3 s.cfg.xlen fsl (s.readReg rs1) (s.readReg rs2) (s.readReg rs3)) s

/-- `fslw` (`42_funnel_shift.md` R73): both data operands are cut to 32 bits before any shift. -/
def execFslw (rd rs1 rs2 rs3 : Reg) (s : State) : Host.Outcome State Fault Refusal :=
  require64 (.fslw rd rs1 rs2 rs3) s <|
    completeCommand rd (narrow3 s.cfg.narrowExt fsl (s.readReg rs1) (s.readReg rs2) (s.readReg rs3)) s

/-- `fsr` (`42_funnel_shift.md` R72). -/
def execFsr (rd rs1 rs2 rs3 : Reg) (s : State) : Host.Outcome State Fault Refusal :=
  completeCommand rd (native3 s.cfg.xlen fsr (s.readReg rs1) (s.readReg rs2) (s.readReg rs3)) s

/-- `fsrw` (`42_funnel_shift.md` R74). -/
def execFsrw (rd rs1 rs2 rs3 : Reg) (s : State) : Host.Outcome State Fault Refusal :=
  require64 (.fsrw rd rs1 rs2 rs3) s <|
    completeCommand rd (narrow3 s.cfg.narrowExt fsr (s.readReg rs1) (s.readReg rs2) (s.readReg rs3)) s

end Sys2Proof.Machine
end

