-- ==== Sys2Proof/Machine/SelectKernel.lean ====
section
/-! DEFINITION. The SelectKernel family (`49_select.md`): conditional select. -/

namespace Sys2Proof.Machine

/-- `cmov_W(a, b, c)`: the condition is the second operand, all of it (`49_select.md` R140). -/
def cmov (W : Nat) (a b c : BitVec W) : BitVec W := if b ≠ 0 then a else c

/-- `cmov` (`49_select.md` R140). -/
def execCmov (rd rs1 rs2 rs3 : Reg) (s : State) : Host.Outcome State Fault Refusal :=
  completeCommand rd (native3 s.cfg.xlen cmov (s.readReg rs1) (s.readReg rs2) (s.readReg rs3)) s

end Sys2Proof.Machine
end

