-- ==== Sys2Proof/Machine/Block.lean ====
section
/-! DEFINITION. The block by its ports (`10_state.md` R12): the outputs `SEL_OK` and `RES` as functions of the inputs `SEL`,
`RS1`, `RS2`, `RS3` of the moment (`70_reset_and_hazards.md` R174). It has no state (R10). -/

namespace Sys2Proof.Machine

/-- The select code `SEL = (N, func)`: bit 5 is `N`, bits 4:0 are `func` (`30_encoding.md` R30). -/
def selectCode (n : Bool) (func : BitVec 5) : BitVec 6 := BitVec.ofBool n ++ func

/-- `SEL_OK`: the select code is accepted in a build of native width `x` (`30_encoding.md` R36). -/
def blockSelOk (x : Xlen) (sel : BitVec 6) : Bool :=
  let func := sel.toNat % 32
  let n := sel.getLsbD 5
  func ≤ 0x1B && (!n || (hasNarrowForm func && x == .x64)) && (!needs64Bits func || x == .x64)

/-- The function a select code names, on the port values: `BMC(N, func, va, vb, vc)` (`30_encoding.md` R31, R42 to R44).
A port the function does not read has no influence (R41). -/
def blockFunction (c : Config) (sel : BitVec 6) (rs1 rs2 rs3 : Word) : Option Word :=
  match sel.toNat with
  | 0x00 => some (native2 c.xlen grev rs1 rs2)
  | 0x01 => some (native2 c.xlen gorc rs1 rs2)
  | 0x02 => some (native2 c.xlen clmul rs1 rs2)
  | 0x03 => some (native2 c.xlen clmulh rs1 rs2)
  | 0x04 => some (native2 c.xlen clmulr rs1 rs2)
  | 0x05 => some (native3 c.xlen fsl rs1 rs2 rs3)
  | 0x06 => some (native3 c.xlen fsr rs1 rs2 rs3)
  | 0x07 => some (native2 c.xlen shfl rs1 rs2)
  | 0x08 => some (native2 c.xlen unshfl rs1 rs2)
  | 0x09 => some (native2 c.xlen (xperm 2) rs1 rs2)
  | 0x0A => some (native2 c.xlen (xperm 3) rs1 rs2)
  | 0x0B => some (native2 c.xlen (xperm 4) rs1 rs2)
  | 0x0C => some (xperm 5 64 rs1 rs2)
  | 0x0D => some (native2 c.xlen (bfp c.bfpLenLsbNative) rs1 rs2)
  | 0x0E => some (native2 c.xlen bcompress rs1 rs2)
  | 0x0F => some (native2 c.xlen bdecompress rs1 rs2)
  | 0x10 => some (native1 c.xlen (crc 8 polyCrc32) rs1)
  | 0x11 => some (native1 c.xlen (crc 16 polyCrc32) rs1)
  | 0x12 => some (native1 c.xlen (crc 32 polyCrc32) rs1)
  | 0x13 => some (crc 64 polyCrc32 64 rs1)
  | 0x14 => some (native1 c.xlen (crc 8 polyCrc32c) rs1)
  | 0x15 => some (native1 c.xlen (crc 16 polyCrc32c) rs1)
  | 0x16 => some (native1 c.xlen (crc 32 polyCrc32c) rs1)
  | 0x17 => some (crc 64 polyCrc32c 64 rs1)
  | 0x18 => some (bmatflip rs1)
  | 0x19 => some (bmatxor rs1 rs2)
  | 0x1A => some (bmator rs1 rs2)
  | 0x1B => some (native3 c.xlen cmov rs1 rs2 rs3)
  | 0x20 => some (narrow2 c.narrowExt grev rs1 rs2)
  | 0x21 => some (narrow2 c.narrowExt gorc rs1 rs2)
  | 0x25 => some (narrow3 c.narrowExt fsl rs1 rs2 rs3)
  | 0x26 => some (narrow3 c.narrowExt fsr rs1 rs2 rs3)
  | 0x27 => some (narrow2 c.narrowExt shfl rs1 rs2)
  | 0x28 => some (narrow2 c.narrowExt unshfl rs1 rs2)
  | 0x2D => some (narrow2 c.narrowExt (bfp c.bfpLenLsb32) rs1 rs2)
  | _ => none

/-- `RES`, or none when `SEL_OK = 0`: then its value is unspecified and the model gives the operation no meaning
(`30_encoding.md` R36; `93_implementation_defined.md` U1; log entry 11). -/
def blockRes (c : Config) (sel : BitVec 6) (rs1 rs2 rs3 : Word) : Option Word :=
  if blockSelOk c.xlen sel then blockFunction c sel rs1 rs2 rs3 else none

end Sys2Proof.Machine
end

