-- ==== Sys2Proof/Machine/Dispatch.lean ====
section
/-! DEFINITION. One arm per constructor of Instr: the meaning of each command (`30_encoding.md` R42). -/

namespace Sys2Proof.Machine

def exec (i : Instr) (s : State) : Host.Outcome State Fault Refusal :=
  match i with
  | .grev rd rs1 rs2 => Sys2Proof.Machine.execGrev rd rs1 rs2 s
  | .grevw rd rs1 rs2 => Sys2Proof.Machine.execGrevw rd rs1 rs2 s
  | .gorc rd rs1 rs2 => Sys2Proof.Machine.execGorc rd rs1 rs2 s
  | .gorcw rd rs1 rs2 => Sys2Proof.Machine.execGorcw rd rs1 rs2 s
  | .clmul rd rs1 rs2 => Sys2Proof.Machine.execClmul rd rs1 rs2 s
  | .clmulh rd rs1 rs2 => Sys2Proof.Machine.execClmulh rd rs1 rs2 s
  | .clmulr rd rs1 rs2 => Sys2Proof.Machine.execClmulr rd rs1 rs2 s
  | .fsl rd rs1 rs2 rs3 => Sys2Proof.Machine.execFsl rd rs1 rs2 rs3 s
  | .fslw rd rs1 rs2 rs3 => Sys2Proof.Machine.execFslw rd rs1 rs2 rs3 s
  | .fsr rd rs1 rs2 rs3 => Sys2Proof.Machine.execFsr rd rs1 rs2 rs3 s
  | .fsrw rd rs1 rs2 rs3 => Sys2Proof.Machine.execFsrw rd rs1 rs2 rs3 s
  | .shfl rd rs1 rs2 => Sys2Proof.Machine.execShfl rd rs1 rs2 s
  | .shflw rd rs1 rs2 => Sys2Proof.Machine.execShflw rd rs1 rs2 s
  | .unshfl rd rs1 rs2 => Sys2Proof.Machine.execUnshfl rd rs1 rs2 s
  | .unshflw rd rs1 rs2 => Sys2Proof.Machine.execUnshflw rd rs1 rs2 s
  | .xperm_n rd rs1 rs2 => Sys2Proof.Machine.execXpermN rd rs1 rs2 s
  | .xperm_b rd rs1 rs2 => Sys2Proof.Machine.execXpermB rd rs1 rs2 s
  | .xperm_h rd rs1 rs2 => Sys2Proof.Machine.execXpermH rd rs1 rs2 s
  | .xperm_w rd rs1 rs2 => Sys2Proof.Machine.execXpermW rd rs1 rs2 s
  | .bfp rd rs1 rs2 => Sys2Proof.Machine.execBfp rd rs1 rs2 s
  | .bfpw rd rs1 rs2 => Sys2Proof.Machine.execBfpw rd rs1 rs2 s
  | .bcompress rd rs1 rs2 => Sys2Proof.Machine.execBcompress rd rs1 rs2 s
  | .bdecompress rd rs1 rs2 => Sys2Proof.Machine.execBdecompress rd rs1 rs2 s
  | .crc32_b rd rs1 => Sys2Proof.Machine.execCrc32B rd rs1 s
  | .crc32_h rd rs1 => Sys2Proof.Machine.execCrc32H rd rs1 s
  | .crc32_w rd rs1 => Sys2Proof.Machine.execCrc32W rd rs1 s
  | .crc32_d rd rs1 => Sys2Proof.Machine.execCrc32D rd rs1 s
  | .crc32c_b rd rs1 => Sys2Proof.Machine.execCrc32cB rd rs1 s
  | .crc32c_h rd rs1 => Sys2Proof.Machine.execCrc32cH rd rs1 s
  | .crc32c_w rd rs1 => Sys2Proof.Machine.execCrc32cW rd rs1 s
  | .crc32c_d rd rs1 => Sys2Proof.Machine.execCrc32cD rd rs1 s
  | .bmatflip rd rs1 => Sys2Proof.Machine.execBmatflip rd rs1 s
  | .bmatxor rd rs1 rs2 => Sys2Proof.Machine.execBmatxor rd rs1 rs2 s
  | .bmator rd rs1 rs2 => Sys2Proof.Machine.execBmator rd rs1 rs2 s
  | .cmov rd rs1 rs2 rs3 => Sys2Proof.Machine.execCmov rd rs1 rs2 rs3 s

end Sys2Proof.Machine
end

