-- ==== Sys2Proof/Machine/Step.lean ====
section
/-! DEFINITION. One step of the sequencer (`30_encoding.md` R42) and the host's way to place an instruction. -/

namespace Sys2Proof.Machine

/-- One step (`30_encoding.md` R42). Running: at the end of the program the run halts; a reserved word takes
`ReservedCommand`; an accepted word is executed. Halted or faulted: no next state (`10_state.md` R19, log entry 8). -/
def step (s : State) : Host.Outcome State Fault Refusal :=
  match s.status with
  | .halted => .fault .stuckHalted
  | .faulted _ _ _ => .fault .stuckFaulted
  | .running =>
    match s.fetch with
    | .atEnd => .next (haltRun s)
    | .beyond => .refused (.noProgramWord s.pc)
    | .word w =>
      match decode s.cfg.xlen w with
      | .error _ => .next (raiseReserved w s)
      | .ok i => exec i s

/-- `s` with the command word `w` as program word number `pc` and the sequencer running, so that the next step fetches and
runs it. It stands for the environment's loading of a program (`70_reset_and_hazards.md` R172; log entries 6 and 15). -/
def State.withFetchWord (s : State) (nbits w : Nat) : State :=
  { s with program := placeWord s.program s.pc (BitVec.ofNat 32 (w % 2 ^ nbits)), status := .running }

end Sys2Proof.Machine
end

