-- ==== Sys2Proof/Machine/Assembler.lean ====
section
/-! DEFINITION. Assembler text (`30_encoding.md` R39): a command as a line of text, and a text as the command words it
assembles to. Blanks and empty lines are the model's convention (log entry 18). -/

namespace Sys2Proof

/-! ### From a command to text -/

/-- The mnemonic of an operation (`30_encoding.md` R31, R39). -/
def Instr.mnemonic : Instr → String
  | .grev _ _ _ => "grev"
  | .grevw _ _ _ => "grevw"
  | .gorc _ _ _ => "gorc"
  | .gorcw _ _ _ => "gorcw"
  | .clmul _ _ _ => "clmul"
  | .clmulh _ _ _ => "clmulh"
  | .clmulr _ _ _ => "clmulr"
  | .fsl _ _ _ _ => "fsl"
  | .fslw _ _ _ _ => "fslw"
  | .fsr _ _ _ _ => "fsr"
  | .fsrw _ _ _ _ => "fsrw"
  | .shfl _ _ _ => "shfl"
  | .shflw _ _ _ => "shflw"
  | .unshfl _ _ _ => "unshfl"
  | .unshflw _ _ _ => "unshflw"
  | .xperm_n _ _ _ => "xperm_n"
  | .xperm_b _ _ _ => "xperm_b"
  | .xperm_h _ _ _ => "xperm_h"
  | .xperm_w _ _ _ => "xperm_w"
  | .bfp _ _ _ => "bfp"
  | .bfpw _ _ _ => "bfpw"
  | .bcompress _ _ _ => "bcompress"
  | .bdecompress _ _ _ => "bdecompress"
  | .crc32_b _ _ => "crc32_b"
  | .crc32_h _ _ => "crc32_h"
  | .crc32_w _ _ => "crc32_w"
  | .crc32_d _ _ => "crc32_d"
  | .crc32c_b _ _ => "crc32c_b"
  | .crc32c_h _ _ => "crc32c_h"
  | .crc32c_w _ _ => "crc32c_w"
  | .crc32c_d _ _ => "crc32c_d"
  | .bmatflip _ _ => "bmatflip"
  | .bmatxor _ _ _ => "bmatxor"
  | .bmator _ _ _ => "bmator"
  | .cmov _ _ _ _ => "cmov"

/-- The assembler name of a register, `x0` .. `x31` (`10_state.md` R17). -/
def regName (r : Reg) : List Char := 'x' :: Nat.toDigits 10 r.val

/-- Operands with a comma and a blank between each two. -/
def operandText : List Reg → List Char
  | [] => []
  | [r] => regName r
  | r :: rs => regName r ++ ',' :: ' ' :: operandText rs

/-- One line of assembler for an operation: `mnemonic xD, xA[, xB[, xC]]` (`30_encoding.md` R39; log entry 18). -/
def Instr.asm (i : Instr) : List Char := i.mnemonic.toList ++ ' ' :: operandText (i.rd :: i.sources)

/-! ### From text to commands -/

/-- A blank or a tabulator separates words (log entry 18). -/
def isBlank (c : Char) : Bool := c == ' ' || c == '\t'

/-- `cs` without the blanks before and after it. -/
def trimBlanks (cs : List Char) : List Char := ((cs.dropWhile isBlank).reverse.dropWhile isBlank).reverse

/-- The register a name stands for, `x0` .. `x31` (`30_encoding.md` R39). -/
def readRegName (cs : List Char) : Option Reg := (List.finRange 32).find? fun r => regName r == cs

/-- The operands of a command, separated by commas. -/
def readOperands (cs : List Char) : Option (List Reg) := (cs.splitOn ',').mapM fun t => readRegName (trimBlanks t)

/-- The operation that a mnemonic and its operands stand for, destination first (`30_encoding.md` R31, R39). There is no
other mnemonic: no pseudo-instruction (R40), label or directive. -/
def instrOf (mnemonic : String) (operands : List Reg) : Option Instr :=
  match mnemonic, operands with
  | "grev", [rd, rs1, rs2] => some (.grev rd rs1 rs2)
  | "grevw", [rd, rs1, rs2] => some (.grevw rd rs1 rs2)
  | "gorc", [rd, rs1, rs2] => some (.gorc rd rs1 rs2)
  | "gorcw", [rd, rs1, rs2] => some (.gorcw rd rs1 rs2)
  | "clmul", [rd, rs1, rs2] => some (.clmul rd rs1 rs2)
  | "clmulh", [rd, rs1, rs2] => some (.clmulh rd rs1 rs2)
  | "clmulr", [rd, rs1, rs2] => some (.clmulr rd rs1 rs2)
  | "fsl", [rd, rs1, rs2, rs3] => some (.fsl rd rs1 rs2 rs3)
  | "fslw", [rd, rs1, rs2, rs3] => some (.fslw rd rs1 rs2 rs3)
  | "fsr", [rd, rs1, rs2, rs3] => some (.fsr rd rs1 rs2 rs3)
  | "fsrw", [rd, rs1, rs2, rs3] => some (.fsrw rd rs1 rs2 rs3)
  | "shfl", [rd, rs1, rs2] => some (.shfl rd rs1 rs2)
  | "shflw", [rd, rs1, rs2] => some (.shflw rd rs1 rs2)
  | "unshfl", [rd, rs1, rs2] => some (.unshfl rd rs1 rs2)
  | "unshflw", [rd, rs1, rs2] => some (.unshflw rd rs1 rs2)
  | "xperm_n", [rd, rs1, rs2] => some (.xperm_n rd rs1 rs2)
  | "xperm_b", [rd, rs1, rs2] => some (.xperm_b rd rs1 rs2)
  | "xperm_h", [rd, rs1, rs2] => some (.xperm_h rd rs1 rs2)
  | "xperm_w", [rd, rs1, rs2] => some (.xperm_w rd rs1 rs2)
  | "bfp", [rd, rs1, rs2] => some (.bfp rd rs1 rs2)
  | "bfpw", [rd, rs1, rs2] => some (.bfpw rd rs1 rs2)
  | "bcompress", [rd, rs1, rs2] => some (.bcompress rd rs1 rs2)
  | "bdecompress", [rd, rs1, rs2] => some (.bdecompress rd rs1 rs2)
  | "crc32_b", [rd, rs1] => some (.crc32_b rd rs1)
  | "crc32_h", [rd, rs1] => some (.crc32_h rd rs1)
  | "crc32_w", [rd, rs1] => some (.crc32_w rd rs1)
  | "crc32_d", [rd, rs1] => some (.crc32_d rd rs1)
  | "crc32c_b", [rd, rs1] => some (.crc32c_b rd rs1)
  | "crc32c_h", [rd, rs1] => some (.crc32c_h rd rs1)
  | "crc32c_w", [rd, rs1] => some (.crc32c_w rd rs1)
  | "crc32c_d", [rd, rs1] => some (.crc32c_d rd rs1)
  | "bmatflip", [rd, rs1] => some (.bmatflip rd rs1)
  | "bmatxor", [rd, rs1, rs2] => some (.bmatxor rd rs1 rs2)
  | "bmator", [rd, rs1, rs2] => some (.bmator rd rs1 rs2)
  | "cmov", [rd, rs1, rs2, rs3] => some (.cmov rd rs1 rs2 rs3)
  | _, _ => none

/-- The commands on a line: one, or none when only blanks stand before the comment that a `;` starts; no answer when the
line is not a command (`30_encoding.md` R39). -/
def assembleLine (line : List Char) : Option (List Instr) :=
  let text := trimBlanks (line.takeWhile (· != ';'))
  if text.isEmpty then some []
  else do
    let operands ← readOperands (text.dropWhile (!isBlank ·))
    let i ← instrOf (String.ofList (text.takeWhile (!isBlank ·))) operands
    return [i]

/-- The program that a text of several lines assembles to. -/
def assemble (text : List Char) : Option (List CommandWord) :=
  ((text.splitOn '\n').mapM assembleLine).map fun lines => lines.flatten.map encode

end Sys2Proof
end

