-- ==== Sys2Proof/Safety.lean ====
section
/-! DEFINITION. The terms in which claims about the sequencer are stated: the invariant of its states, the end of a run,
the frame of a completed command, and a result said bit by bit. -/

namespace Sys2Proof.Machine

/-- Every register holds an `XLEN`-bit value (`10_state.md` R17). -/
abbrev State.RegsFit (s : State) : Prop := ∀ r : Reg, (s.readReg r).toNat < 2 ^ s.cfg.xlen.bits

/-- `pc` and `status` tell one story: a running sequencer is inside the program or at its end (`10_state.md` R18), a halted
one is at its end (R19), and a fault record names the reserved word that `pc` still points at (`60_exceptions.md` R154). -/
def State.StatusFits (s : State) : Prop :=
  match s.status with
  | .running => s.pc ≤ s.program.length
  | .halted => s.pc = s.program.length
  | .faulted _ p w => p = s.pc ∧ s.program[s.pc]? = some w ∧ isReserved s.cfg.xlen w = true

/-- The invariant of the sequencer's states. -/
structure State.Inv (s : State) : Prop where
  regsFit : s.RegsFit
  statusFits : s.StatusFits

/-- The frame of a completed command with destination `rd` (`30_encoding.md` R42): `pc` advances by exactly 1, every other
register, the status, the program and the build are unchanged. There is no memory, flag or special register to name. -/
structure State.OnlyWrites (rd : Reg) (s t : State) : Prop where
  pc : t.pc = s.pc + 1
  others : ∀ r : Reg, r ≠ rd → t.readReg r = s.readReg r
  status : t.status = s.status
  program : t.program = s.program
  cfg : t.cfg = s.cfg

/-- `exec i s` answers a next state that differs from `s` only as a completed command's may, and the value written to the
destination register satisfies `res`. -/
def CompletesWith (i : Instr) (s : State) (res : Word → Prop) : Prop :=
  ∃ t, exec i s = .next t ∧ State.OnlyWrites i.rd s t ∧ res (t.readReg i.rd)

/-- `v` is the native result whose bit `i` is `bit i`: `XLEN` bits, nothing above them (`30_encoding.md` R44, `N = 0`). -/
def NativeBits (x : Xlen) (v : Word) (bit : Nat → Bool) : Prop :=
  ∀ i, v.getLsbD i = (decide (i < x.bits) && bit i)

/-- `v` is the narrow result whose bit `i` is `bit i`: 32 bits, then copies of bit 31 (`NARROW_EXT = sign`) or zeros
(`zero`) in bits 63:32 (`30_encoding.md` R44, `N = 1`). -/
def NarrowBits (e : NarrowExt) (v : Word) (bit : Nat → Bool) : Prop :=
  ∀ i, i < 64 → v.getLsbD i = if i < 32 then bit i else (e == .sign && bit 31)

end Sys2Proof.Machine
end

