-- ==== Sys2Proof/Certificates/Slice0/Obligations.lean ====
section
/-! DEFINITION. The statements for the provers. Every statement ranges over all builds (`00_scope.md` R4: the parameters are
open) and over all start states (R172), except where it names the build an operation needs. Statements 'by bits' say each
bit of a result by a formula of their own, not by the model's loops. -/

namespace Sys2Proof.Claims

/-! ### Closed forms -/

/-- The function code of an operation (`30_encoding.md` R31). -/
def functionCode : Instr → Nat
  | .grev _ _ _ => 0x00
  | .grevw _ _ _ => 0x00
  | .gorc _ _ _ => 0x01
  | .gorcw _ _ _ => 0x01
  | .clmul _ _ _ => 0x02
  | .clmulh _ _ _ => 0x03
  | .clmulr _ _ _ => 0x04
  | .fsl _ _ _ _ => 0x05
  | .fslw _ _ _ _ => 0x05
  | .fsr _ _ _ _ => 0x06
  | .fsrw _ _ _ _ => 0x06
  | .shfl _ _ _ => 0x07
  | .shflw _ _ _ => 0x07
  | .unshfl _ _ _ => 0x08
  | .unshflw _ _ _ => 0x08
  | .xperm_n _ _ _ => 0x09
  | .xperm_b _ _ _ => 0x0A
  | .xperm_h _ _ _ => 0x0B
  | .xperm_w _ _ _ => 0x0C
  | .bfp _ _ _ => 0x0D
  | .bfpw _ _ _ => 0x0D
  | .bcompress _ _ _ => 0x0E
  | .bdecompress _ _ _ => 0x0F
  | .crc32_b _ _ => 0x10
  | .crc32_h _ _ => 0x11
  | .crc32_w _ _ => 0x12
  | .crc32_d _ _ => 0x13
  | .crc32c_b _ _ => 0x14
  | .crc32c_h _ _ => 0x15
  | .crc32c_w _ _ => 0x16
  | .crc32c_d _ _ => 0x17
  | .bmatflip _ _ => 0x18
  | .bmatxor _ _ _ => 0x19
  | .bmator _ _ _ => 0x1A
  | .cmov _ _ _ _ => 0x1B

/-- Bit `i` of `gorc` at width `W` under control `k` by the closed form of `40_bitpermute.md` R54: the OR of the bits of `a`
whose position differs from `i` only where `k` has a one. -/
def gorcBit (W : Nat) (a : Word) (k i : Nat) : Bool :=
  (List.range W).any fun j => a.getLsbD j && ((i ^^^ j) &&& k == i ^^^ j)

/-- Bit `n` of the product of `a` and `b` as GF(2) polynomials: the parity of the number of pairs of set bits `i` of `b` and
`j` of `a` with `i + j = n` (`41_carryless_mul.md` R60). -/
def productBit {W : Nat} (a b : BitVec W) (n : Nat) : Bool :=
  ((List.range W).countP fun i => b.getLsbD i && decide (i ≤ n) && a.getLsbD (n - i)) % 2 == 1

/-- The bit position `p` with its index bits `j` and `j + 1` exchanged (`43_shuffle.md` R81). -/
def exchangeIndexBits (j p : Nat) : Nat :=
  if p.testBit j = p.testBit (j + 1) then p else p ^^^ (3 * 2 ^ j)

/-- Where bit `p` of a shuffle with the stages `stages` (first stage first) and control `k` comes from: the exchanges of the
active stages, last stage first. -/
def shuffleSource (stages : List Nat) (k p : Nat) : Nat :=
  stages.foldr (fun j q => if k.testBit j then exchangeIndexBits j q else q) p

/-- Bit `i` of the crossbar with groups of `sz` bits (`44_crossbar.md` R90): the group of `b` that `i` lies in is an index;
the same bit of the group of `a` with that index, or zero when that group starts at or beyond bit `W`. -/
def crossbarBit {W : Nat} (sz : Nat) (a b : BitVec W) (i : Nat) : Bool :=
  let idx := (b.toNat / 2 ^ (sz * (i / sz))) % 2 ^ sz
  decide (idx * sz < W) && a.getLsbD (idx * sz + i % sz)

/-- The control word of the second operand `b` of `bfp` at width `W` (`45_fieldplace.md` R100). -/
def fieldControl (W b : Nat) : Nat :=
  if b / 2 ^ (W / 2) / 2 ^ 30 = 2 then b / 2 ^ (W / 2) / 2 ^ 16 else b / 2 ^ (W / 2)

/-- The offset of the field (`45_fieldplace.md` R101). -/
def fieldOffset (W b : Nat) : Nat := fieldControl W b % W

/-- The length of the field, 0 meaning `W/2`, with `BFP_LEN_LSB = lsb` (`45_fieldplace.md` R101). -/
def fieldLength (lsb W b : Nat) : Nat :=
  if fieldControl W b / 2 ^ lsb % (W / 2) = 0 then W / 2 else fieldControl W b / 2 ^ lsb % (W / 2)

/-- Bit `i` of `bfp`: bit `i - off` of `b` inside the field, bit `i` of `a` outside it (`45_fieldplace.md` R102). -/
def fieldPlaceBit {W : Nat} (lsb : Nat) (a b : BitVec W) (i : Nat) : Bool :=
  let off := fieldOffset W b.toNat
  if off ≤ i ∧ i < off + fieldLength lsb W b.toNat then b.getLsbD (i - off) else a.getLsbD i

/-- The number of mask bits below position `i` (`46_compress.md` R110). -/
def maskRank {W : Nat} (m : BitVec W) (i : Nat) : Nat := (List.range i).countP fun k => m.getLsbD k

/-- A `W`-bit value as a polynomial over GF(2) in the reflected order of the CRC: bit `i` is the coefficient of
`X^(W-1-i)`. -/
noncomputable def reflectedPoly {W : Nat} (v : BitVec W) : Polynomial (ZMod 2) :=
  ∑ i ∈ Finset.range W, if v.getLsbD i then Polynomial.X ^ (W - 1 - i) else 0

/-- The modulus of a CRC of width `W` with the reversed polynomial constant `poly`: `X^W` and the constant's terms. -/
noncomputable def crcModulus (W : Nat) (poly : BitVec 32) : Polynomial (ZMod 2) :=
  Polynomial.X ^ W + reflectedPoly (poly.setWidth W)

/-- `r` is the CRC over `n` bits of `a`: the remainder of `a * X^n`, in the reflected reading. -/
def IsCrcOf {W : Nat} (n : Nat) (poly : BitVec 32) (a r : BitVec W) : Prop :=
  reflectedPoly r = Polynomial.modByMonic (reflectedPoly a * Polynomial.X ^ n) (crcModulus W poly)

end Sys2Proof.Claims

open Sys2Proof Sys2Proof.Machine Sys2Proof.Claims

/-! ### Encoding -/

/-- `30_encoding.md` R38 with R34: decoding the command word of an operation of the build gives the operation back, with
every operand at every value. -/
def Obligations.DecodeOfEncode : Prop :=
  ∀ (x : Xlen) (i : Instr), wellFormed x i = true → decode x (encode i) = .ok i

/-- `30_encoding.md` R38: two accepted words that decode to the same operation are the same word, namely its encoding; and
an accepted word decodes to an operation of the build. -/
def Obligations.AcceptedWordIsTheEncoding : Prop :=
  ∀ (x : Xlen) (w : CommandWord) (i : Instr), decode x w = .ok i → encode i = w ∧ wellFormed x i = true

/-- `30_encoding.md` R35, R36: a word is accepted exactly when it matches a row of the opcode table under the row's mask and
the build has the row; every other word is reserved. -/
def Obligations.AcceptedWordsAreTheOpcodeTable : Prop :=
  ∀ (x : Xlen) (w : CommandWord),
    (∃ i, decode x w = .ok i) ↔
      ∃ row ∈ opcodeTable, w &&& row.mask = row.value ∧ (x = .x64 ∨ row.at32 = true)

/-- `30_encoding.md` R34: the numeric value of a command word, with the unused fields zero (R35): the source registers of
an operation stand in the fields `rs1f`, `rs2f`, `rs3f` in operand order. -/
def Obligations.CommandWordValue : Prop :=
  ∀ i : Instr,
    (encode i).toNat =
      ((i.sources[2]?).elim 0 Fin.val) * 2 ^ 27 + ((i.sources[1]?).elim 0 Fin.val) * 2 ^ 22 +
        ((i.sources[0]?).elim 0 Fin.val) * 2 ^ 17 + i.rd.val * 2 ^ 12 + (if i.isNarrow then 2 ^ 5 else 0) + functionCode i

/-- Words written out in `95_test_vectors.md` section 2.12 decode as they are listed there. -/
def Obligations.ListedWordsDecode : Prop :=
  decode .x64 0x00823000 = .ok (.grev 3 1 2) ∧ decode .x64 0x00823020 = .ok (.grevw 3 1 2) ∧
  decode .x32 0x00823020 = .error .narrowAt32 ∧ decode .x64 0x20823005 = .ok (.fsl 3 1 2 4) ∧
  decode .x64 0xFFFFF01B = .ok (.cmov 31 31 31 31) ∧ decode .x64 0x00022010 = .ok (.crc32_b 2 1) ∧
  decode .x64 0x00024018 = .ok (.bmatflip 4 1) ∧ decode .x64 0x0202700C = .ok (.xperm_w 7 1 8) ∧
  decode .x64 0x0282902D = .ok (.bfpw 9 1 10) ∧ decode .x64 0x00823022 = .error .noNarrowForm ∧
  decode .x64 0x0082301C = .error .functionCode ∧ decode .x64 0x20823000 = .error .rs3Field

/-- `30_encoding.md` R39 (blanks and line ends are the model's convention, log entry 18): the text of a command is read
back as that command, and the text of a program, one command per line, assembles to the program's command words. -/
def Obligations.AssemblerReadsItsOwnText : Prop :=
  (∀ i : Instr, assembleLine i.asm = some [i]) ∧
    ∀ p : List Instr, assemble (List.intercalate ['\n'] (p.map Instr.asm)) = some (p.map encode)

/-! ### The sequencer -/

/-- `30_encoding.md` R42: when the word at `pc` decodes to an operation, a step of a running sequencer is that operation's
execution, and nothing is added around it. -/
def Obligations.StepRunsDecodedInstruction : Prop :=
  ∀ (s : State) (w : CommandWord) (i : Instr),
    s.status = .running → s.program[s.pc]? = some w → decode s.cfg.xlen w = .ok i → step s = exec i s

/-- `60_exceptions.md` R154: on a reserved word the sequencer performs exactly `status <- faulted(1, pc, w)`: the registers,
`pc`, the program and the build stand, so every earlier result is there and the word has had no effect; the run is over. -/
def Obligations.ReservedWordFaultsPrecisely : Prop :=
  ∀ (s : State) (w : CommandWord),
    s.status = .running → s.program[s.pc]? = some w → isReserved s.cfg.xlen w = true →
      step s = .next { s with status := .faulted .reservedCommand s.pc w } ∧ Cause.reservedCommand.code = 1 ∧
        ∀ u, step { s with status := .faulted .reservedCommand s.pc w } ≠ .next u

/-- `30_encoding.md` R42, the whole step of a running sequencer: at the end of the program it halts; a reserved word raises
`ReservedCommand` and nothing else changes; an accepted word writes the block's result on the values its source registers
had before, to its destination register and no other, and advances `pc` by exactly 1. -/
def Obligations.StepFollowsTheSequencerRule : Prop :=
  ∀ s : State, s.status = .running →
    (s.pc = s.program.length → step s = .next { s with status := .halted }) ∧
    ∀ w, s.program[s.pc]? = some w →
      (isReserved s.cfg.xlen w = true → step s = .next { s with status := .faulted .reservedCommand s.pc w }) ∧
      ∀ i, decode s.cfg.xlen w = .ok i →
        ∃ t, step s = .next t ∧ State.OnlyWrites i.rd s t ∧
          blockRes s.cfg (w.extractLsb' 0 6) ((i.sources[0]?).elim 0 s.readReg)
            ((i.sources[1]?).elim 0 s.readReg) ((i.sources[2]?).elim 0 s.readReg) = some (t.readReg i.rd)

/-- `60_exceptions.md` R155 (and `10_state.md` R19 for `halted`): no step resumes a sequencer that has ended; only reset
leaves that status, and reset discards the fault record. -/
def Obligations.EndedRunsAreStuckUntilReset : Prop :=
  ∀ s : State, s.status ≠ .running →
    (∀ t, step s ≠ .next t) ∧ ∀ regs, (resetSequencer regs s).status = .running

/-- `70_reset_and_hazards.md` R171: reset sets `pc` to 0 and the status to running, whatever they were; the registers take
any values; the next command fetched is word 0 of the program. That the program and the build stand is the model's reading
(log entry 13). -/
def Obligations.ResetRestartsTheProgram : Prop :=
  ∀ (regs : RegFile) (s : State),
    let t := resetSequencer regs s
    t.pc = 0 ∧ t.status = .running ∧ (∀ r : Reg, t.readReg r = regs[r]) ∧ t.program = s.program ∧ t.cfg = s.cfg ∧
      (s.program = [] → t.fetch = .atEnd) ∧ ∀ w rest, s.program = w :: rest → t.fetch = .word w

/-- The invariant `State.Inv` (registers of `XLEN` bits, `pc` inside the program, a true fault record) is kept by every
step from every state that meets it. -/
def Obligations.StepKeepsInvariant : Prop :=
  ∀ s t : State, s.Inv → step s = .next t → t.Inv

/-- The invariant holds at `State.reset` and at every launch with registers of `XLEN` bits. -/
def Obligations.LaunchMeetsInvariant : Prop :=
  State.reset.Inv ∧
    ∀ (cfg : Config) (program : List CommandWord) (regs : RegFile),
      (∀ r : Reg, (regs[r]).toNat < 2 ^ cfg.xlen.bits) → (State.launch cfg program regs).Inv

/-- `70_reset_and_hazards.md` R176: a run of the `n` words that are left ends after at most `n + 1` steps, in exactly one of
two ways: halted at the end of the program, or faulted at a reserved word. -/
def Obligations.EveryRunEnds : Prop :=
  ∀ s : State, s.status = .running → s.pc ≤ s.program.length →
    ∃ k ≤ s.program.length - s.pc + 1, ∃ t, core.run k s = .next t ∧ t.program = s.program ∧
      ((t.status = .halted ∧ t.pc = s.program.length) ∨
        ∃ w, t.status = .faulted .reservedCommand t.pc w ∧ s.program[t.pc]? = some w ∧ isReserved s.cfg.xlen w = true)

/-- `20_memory.md` R26: no command can write the program; every word of it is the same for the whole run. -/
def Obligations.RunNeverWritesTheProgram : Prop :=
  ∀ (k : Nat) (s t : State), core.run k s = .next t → t.program = s.program

/-- `10_state.md` R18 and `30_encoding.md` R42: a step either completes one command, writing at most its one destination
register and advancing `pc` by 1, or ends the run with the registers and `pc` as they were. The program and the build
(log entry 1) stand in both cases. -/
def Obligations.StepCompletesOneCommandOrEnds : Prop :=
  ∀ s t : State, step s = .next t →
    (t.status = .running ∧ ∃ rd, State.OnlyWrites rd s t) ∨
      (t.status ≠ .running ∧ t.pc = s.pc ∧ (∀ r, t.readReg r = s.readReg r) ∧ t.program = s.program ∧ t.cfg = s.cfg)

/-- `60_exceptions.md` R150 and `30_encoding.md` R42: every operation of the build completes, for all operand values: it
raises nothing (the status stands), writes its destination register and no other, and advances `pc` by 1. -/
def Obligations.EveryOperationCompletes : Prop :=
  ∀ (i : Instr) (s : State), wellFormed s.cfg.xlen i = true → CompletesWith i s fun _ => True

/-- The model's choice (log entry 9), from `30_encoding.md` R33: an operation that the build does not have takes
`ReservedCommand` on its own command word. -/
def Obligations.OperationOutsideTheBuildFaults : Prop :=
  ∀ (i : Instr) (s : State), wellFormed s.cfg.xlen i = false →
    exec i s = .next { s with status := .faulted .reservedCommand s.pc (encode i) }

/-- `10_state.md` R17: no register is hardwired; what is written to any of the 32 registers is read back, and no other
register changes. -/
def Obligations.EveryRegisterHoldsWhatIsWritten : Prop :=
  ∀ (s : State) (r : Reg) (v : Word),
    (v.toNat < 2 ^ s.cfg.xlen.bits → (s.writeReg r v).readReg r = v) ∧
      ∀ r' : Reg, r' ≠ r → (s.writeReg r v).readReg r' = s.readReg r'

/-- `00_scope.md` R5, `30_encoding.md` R41: the result of an operation depends on its operation, the build and the values of
its source registers, and on nothing else of the state. -/
def Obligations.ResultDependsOnSourcesOnly : Prop :=
  ∀ (i : Instr) (s s' : State), wellFormed s.cfg.xlen i = true → s'.cfg = s.cfg →
    (∀ r ∈ i.sources, s'.readReg r = s.readReg r) →
      ∃ v, CompletesWith i s (· = v) ∧ CompletesWith i s' (· = v)

/-- `00_scope.md` R7: the upper 32 bits of the operands never influence a narrow result. -/
def Obligations.NarrowResultIgnoresUpperHalves : Prop :=
  ∀ (i : Instr) (s s' : State), i.isNarrow = true → s.cfg.xlen = .x64 → s'.cfg = s.cfg →
    (∀ r ∈ i.sources, (s'.readReg r).setWidth 32 = (s.readReg r).setWidth 32) →
      ∃ v, CompletesWith i s (· = v) ∧ CompletesWith i s' (· = v)

/-- `00_scope.md` R7: a narrow operation computes as if its operands were 32-bit: its result is what the native function
gives in a 32-bit build on registers that hold the low halves, in the low 32 bits, widened by `NARROW_EXT`; so the upper
halves of the operands never influence it. -/
def Obligations.NarrowFormIsThe32BitFunction : Prop :=
  ∀ (rd a b c : Reg) (s s32 : State),
    s.cfg.xlen = .x64 → s32.cfg.xlen = .x32 → s32.cfg.bfpLenLsb32 = s.cfg.bfpLenLsb32 →
    (∀ r ∈ [a, b, c], (s32.readReg r).setWidth 32 = (s.readReg r).setWidth 32) →
    ∀ p ∈ [(Instr.grevw rd a b, Instr.grev rd a b), (Instr.gorcw rd a b, Instr.gorc rd a b),
           (Instr.fslw rd a b c, Instr.fsl rd a b c), (Instr.fsrw rd a b c, Instr.fsr rd a b c),
           (Instr.shflw rd a b, Instr.shfl rd a b), (Instr.unshflw rd a b, Instr.unshfl rd a b),
           (Instr.bfpw rd a b, Instr.bfp rd a b)],
      ∃ v r, CompletesWith p.1 s (· = v) ∧ CompletesWith p.2 s32 (· = r) ∧ NarrowBits s.cfg.narrowExt v r.getLsbD

/-! ### The block -/

/-- `30_encoding.md` R42, R41: the sequencer writes what the block answers on the source registers' values; the ports that
the function does not read may carry anything. -/
def Obligations.SequencerWritesTheBlocksResult : Prop :=
  ∀ (i : Instr) (s : State) (d2 d3 : Word), wellFormed s.cfg.xlen i = true →
    CompletesWith i s fun v =>
      blockRes s.cfg ((encode i).extractLsb' 0 6) ((i.sources[0]?).elim 0 s.readReg)
        ((i.sources[1]?).elim d2 s.readReg) ((i.sources[2]?).elim d3 s.readReg) = some v

/-- `30_encoding.md` R36: `SEL_OK = 1` exactly on the select codes of the operations the build has; there `RES` has a value,
elsewhere the model gives it none (log entry 11). -/
def Obligations.SelectCodesAcceptedByTheBlock : Prop :=
  ∀ (c : Config) (sel : BitVec 6),
    (blockSelOk c.xlen sel = true ↔ ∃ i, wellFormed c.xlen i = true ∧ (encode i).extractLsb' 0 6 = sel) ∧
      ∀ a b d, (blockRes c sel a b d).isSome = blockSelOk c.xlen sel

/-! ### BitPermute -/

/-- `40_bitpermute.md` R52: the command word of `grev`, and its result: bit `i` is bit `i xor (b mod W)` of `a`. -/
def Obligations.GrevByBits : Prop :=
  ∀ (s : State) (rd rs1 rs2 : Reg),
    (encode (.grev rd rs1 rs2)).toNat = rs2.val * 2 ^ 22 + rs1.val * 2 ^ 17 + rd.val * 2 ^ 12 + 0b00000 ∧
    CompletesWith (.grev rd rs1 rs2) s fun v => NativeBits s.cfg.xlen v fun i =>
      (s.readReg rs1).getLsbD (i ^^^ ((s.readReg rs2).toNat % s.cfg.xlen.bits))

/-- `40_bitpermute.md` R53, by bits: `grevw` is `grev` on the low 32 bits, control mod 32, widened by `NARROW_EXT`. -/
def Obligations.GrevwByBits : Prop :=
  ∀ (s : State) (rd rs1 rs2 : Reg), s.cfg.xlen = .x64 →
    CompletesWith (.grevw rd rs1 rs2) s fun v => NarrowBits s.cfg.narrowExt v fun i =>
      (s.readReg rs1).getLsbD (i ^^^ ((s.readReg rs2).toNat % 32))

/-- `40_bitpermute.md` R54, by bits. -/
def Obligations.GorcByBits : Prop :=
  ∀ (s : State) (rd rs1 rs2 : Reg),
    CompletesWith (.gorc rd rs1 rs2) s fun v => NativeBits s.cfg.xlen v
      (gorcBit s.cfg.xlen.bits (s.readReg rs1) ((s.readReg rs2).toNat % s.cfg.xlen.bits))

/-- `40_bitpermute.md` R55, by bits. -/
def Obligations.GorcwByBits : Prop :=
  ∀ (s : State) (rd rs1 rs2 : Reg), s.cfg.xlen = .x64 →
    CompletesWith (.gorcw rd rs1 rs2) s fun v => NarrowBits s.cfg.narrowExt v
      (gorcBit 32 (s.readReg rs1) ((s.readReg rs2).toNat % 32))

/-- `40_bitpermute.md` R56: the laws of the family, at both operand widths. -/
def Obligations.BitPermuteLaws : Prop :=
  ∀ W, W = 32 ∨ W = 64 → ∀ a b b' : BitVec W,
    grev W (grev W a b) b = a ∧ grev W a 0 = a ∧ gorc W a 0 = a ∧
    grev W a b = grev W a (BitVec.ofNat W (b.toNat % W)) ∧ gorc W a b = gorc W a (BitVec.ofNat W (b.toNat % W)) ∧
    grev W (grev W a b) b' = grev W a (b ^^^ b') ∧ gorc W (gorc W a b) b' = gorc W a (b ||| b') ∧
    popcount (grev W a b) = popcount a

/-! ### CarrylessMul -/

/-- `41_carryless_mul.md` R61 to R63, by bits: `clmul`, `clmulh` and `clmulr` are the bits of the full product from bit 0,
`W` and `W - 1` on. -/
def Obligations.ClmulByBits : Prop :=
  ∀ (s : State) (rd rs1 rs2 : Reg),
    let W := s.cfg.xlen.bits
    let a := (s.readReg rs1).setWidth W
    let b := (s.readReg rs2).setWidth W
    CompletesWith (.clmul rd rs1 rs2) s (fun v => NativeBits s.cfg.xlen v fun n => productBit a b n) ∧
    CompletesWith (.clmulh rd rs1 rs2) s (fun v => NativeBits s.cfg.xlen v fun n => productBit a b (W + n)) ∧
    CompletesWith (.clmulr rd rs1 rs2) s (fun v => NativeBits s.cfg.xlen v fun n => productBit a b (W - 1 + n))

/-- `41_carryless_mul.md` R64: `clmulh` and `clmul` are the two halves of the full product, which is symmetric; each of the
three functions is linear over XOR in each operand. -/
def Obligations.ClmulHalvesMakeTheProduct : Prop :=
  ∀ W, W = 32 ∨ W = 64 → ∀ a a' b : BitVec W,
    (clmulh W a b ++ clmul W a b).toNat = (carrylessProduct W a b).toNat ∧
    carrylessProduct W a b = carrylessProduct W b a ∧
    (∀ f ∈ [clmul W, clmulh W, clmulr W], f (a ^^^ a') b = f a b ^^^ f a' b ∧ f b (a ^^^ a') = f b a ^^^ f b a')

/-- `41_carryless_mul.md` R63, the three equivalences: `clmulr` is the product shifted right by `W - 1`; it is `clmul` of the
bit-reversed operands, bit-reversed; and it is `clmulh` shifted left by one with the top bit of `clmul` below. -/
def Obligations.ClmulrEquivalences : Prop :=
  ∀ W, W = 32 ∨ W = 64 → ∀ a b : BitVec W,
    (clmulr W a b).toNat = (carrylessProduct W a b).toNat >>> (W - 1) % 2 ^ W ∧
    (let rev := fun v => grev W v (BitVec.ofNat W (W - 1))
     clmulr W a b = rev (clmul W (rev a) (rev b))) ∧
    clmulr W a b = (clmulh W a b <<< 1) ||| (clmul W a b >>> (W - 1))

/-! ### FunnelShift -/

/-- `42_funnel_shift.md` R70 to R72, by bits: `fsl` and `fsr` are the high half of the `2W`-bit value `a ++ c` rotated left
and right by `b mod 2W`. -/
def Obligations.FunnelShiftByBits : Prop :=
  ∀ (s : State) (rd rs1 rs2 rs3 : Reg),
    let W := s.cfg.xlen.bits
    let ac := (s.readReg rs1).setWidth W ++ (s.readReg rs3).setWidth W
    let sh := (s.readReg rs2).toNat % (2 * W)
    CompletesWith (.fsl rd rs1 rs2 rs3) s (fun v => NativeBits s.cfg.xlen v fun i =>
      ac.getLsbD ((W + i + (2 * W - sh)) % (2 * W))) ∧
    CompletesWith (.fsr rd rs1 rs2 rs3) s (fun v => NativeBits s.cfg.xlen v fun i =>
      ac.getLsbD ((W + i + sh) % (2 * W)))

/-- `42_funnel_shift.md` R73, R74, by bits: the narrow forms rotate the 64-bit value made of the low halves of `RS1` and
`RS3`; the threshold is 32 and the amount mask 63; no bit of an upper half enters. -/
def Obligations.NarrowFunnelShiftByBits : Prop :=
  ∀ (s : State) (rd rs1 rs2 rs3 : Reg), s.cfg.xlen = .x64 →
    let ac := (s.readReg rs1).setWidth 32 ++ (s.readReg rs3).setWidth 32
    let sh := (s.readReg rs2).toNat % 64
    CompletesWith (.fslw rd rs1 rs2 rs3) s (fun v => NarrowBits s.cfg.narrowExt v fun i =>
      ac.getLsbD ((32 + i + (64 - sh)) % 64)) ∧
    CompletesWith (.fsrw rd rs1 rs2 rs3) s (fun v => NarrowBits s.cfg.narrowExt v fun i =>
      ac.getLsbD ((32 + i + sh) % 64))

/-- `42_funnel_shift.md` R75 (i) to (iv): negating the amount turns `fsl` into `fsr`; adding `W` to the amount swaps the
outer operands; with equal outer operands `fsl` rotates; every result bit is a copy of one bit of `a` or `c`, the same for
all `a` and `c`. -/
def Obligations.FunnelShiftLaws : Prop :=
  ∀ W, W = 32 ∨ W = 64 → ∀ b : BitVec W,
    (∀ a c : BitVec W,
      fsl W a b c = fsr W a (BitVec.ofNat W ((2 * W - b.toNat % (2 * W)) % (2 * W))) c ∧
      fsl W a (b + BitVec.ofNat W W) c = fsl W c b a ∧ fsr W a (b + BitVec.ofNat W W) c = fsr W c b a ∧
      fsl W a b a = a.rotateLeft (b.toNat % W)) ∧
    ∀ f ∈ [fsl W, fsr W], ∀ i < W, ∃ j < W,
      (∀ a c : BitVec W, (f a b c).getLsbD i = a.getLsbD j) ∨ (∀ a c : BitVec W, (f a b c).getLsbD i = c.getLsbD j)

/-! ### ShuffleNetwork -/

/-- `43_shuffle.md` R81 to R83, by bits (the stage movement and stage order are the spec's general knowledge, log entry 12):
the stages of `shfl` run from `W/4` down to 1, those of `unshfl` from 1 up, under the control `b mod W/2`. -/
def Obligations.ShuffleByBits : Prop :=
  ∀ (s : State) (rd rs1 rs2 : Reg),
    let W := s.cfg.xlen.bits
    let up := match s.cfg.xlen with | .x32 => [0, 1, 2, 3] | .x64 => [0, 1, 2, 3, 4]
    let k := (s.readReg rs2).toNat % (W / 2)
    CompletesWith (.shfl rd rs1 rs2) s (fun v => NativeBits s.cfg.xlen v fun p =>
      (s.readReg rs1).getLsbD (shuffleSource up.reverse k p)) ∧
    CompletesWith (.unshfl rd rs1 rs2) s (fun v => NativeBits s.cfg.xlen v fun p =>
      (s.readReg rs1).getLsbD (shuffleSource up k p))

/-- `43_shuffle.md` R84, R85, by bits: the narrow forms have the stages 8, 4, 2, 1 and read the low 4 control bits. -/
def Obligations.NarrowShuffleByBits : Prop :=
  ∀ (s : State) (rd rs1 rs2 : Reg), s.cfg.xlen = .x64 →
    let k := (s.readReg rs2).toNat % 16
    CompletesWith (.shflw rd rs1 rs2) s (fun v => NarrowBits s.cfg.narrowExt v fun p =>
      (s.readReg rs1).getLsbD (shuffleSource [3, 2, 1, 0] k p)) ∧
    CompletesWith (.unshflw rd rs1 rs2) s (fun v => NarrowBits s.cfg.narrowExt v fun p =>
      (s.readReg rs1).getLsbD (shuffleSource [0, 1, 2, 3] k p))

/-- `43_shuffle.md` R86: `shfl` and `unshfl` undo each other; only `b mod W/2` matters; both keep the number of set bits and
are linear over XOR, AND and OR; `log2(W)` full shuffles in a row give the value back. -/
def Obligations.ShuffleLaws : Prop :=
  ∀ W, W = 32 ∨ W = 64 → ∀ a a' b : BitVec W,
    unshfl W (shfl W a b) b = a ∧ shfl W (unshfl W a b) b = a ∧
    (∀ f ∈ [shfl W, unshfl W],
      f a b = f a (BitVec.ofNat W (b.toNat % (W / 2))) ∧ popcount (f a b) = popcount a ∧
      f (a ^^^ a') b = f a b ^^^ f a' b ∧ f (a &&& a') b = f a b &&& f a' b ∧ f (a ||| a') b = f a b ||| f a' b) ∧
    (fun v => shfl W v (BitVec.ofNat W (W / 2 - 1)))^[Nat.log2 W] a = a

/-- `43_shuffle.md` R82, full shuffle: with all stages active the low and high halves are interleaved, the low half on the
even positions; R83: the full unshuffle gathers them back. -/
def Obligations.FullShuffleInterleavesHalves : Prop :=
  ∀ W, W = 32 ∨ W = 64 → ∀ (a : BitVec W), ∀ i < W / 2,
    let full := BitVec.ofNat W (W / 2 - 1)
    (shfl W a full).getLsbD (2 * i) = a.getLsbD i ∧ (shfl W a full).getLsbD (2 * i + 1) = a.getLsbD (W / 2 + i) ∧
    (unshfl W a full).getLsbD i = a.getLsbD (2 * i) ∧ (unshfl W a full).getLsbD (W / 2 + i) = a.getLsbD (2 * i + 1)

/-! ### CrossbarPermute -/

/-- `44_crossbar.md` R91 to R93 with R90: the command words of the nibble, byte and halfword crossbars, and their results. -/
def Obligations.CrossbarByBits : Prop :=
  ∀ (s : State) (rd rs1 rs2 : Reg),
    let a := (s.readReg rs1).setWidth s.cfg.xlen.bits
    let b := (s.readReg rs2).setWidth s.cfg.xlen.bits
    (encode (.xperm_n rd rs1 rs2)).toNat = rs2.val * 2 ^ 22 + rs1.val * 2 ^ 17 + rd.val * 2 ^ 12 + 0b01001 ∧
    (encode (.xperm_b rd rs1 rs2)).toNat = rs2.val * 2 ^ 22 + rs1.val * 2 ^ 17 + rd.val * 2 ^ 12 + 0b01010 ∧
    (encode (.xperm_h rd rs1 rs2)).toNat = rs2.val * 2 ^ 22 + rs1.val * 2 ^ 17 + rd.val * 2 ^ 12 + 0b01011 ∧
    CompletesWith (.xperm_n rd rs1 rs2) s (fun v => NativeBits s.cfg.xlen v (crossbarBit 4 a b)) ∧
    CompletesWith (.xperm_b rd rs1 rs2) s (fun v => NativeBits s.cfg.xlen v (crossbarBit 8 a b)) ∧
    CompletesWith (.xperm_h rd rs1 rs2) s (fun v => NativeBits s.cfg.xlen v (crossbarBit 16 a b))

/-- `44_crossbar.md` R94, by bits: the word crossbar of a 64-bit build. -/
def Obligations.WordCrossbarByBits : Prop :=
  ∀ (s : State) (rd rs1 rs2 : Reg), s.cfg.xlen = .x64 →
    CompletesWith (.xperm_w rd rs1 rs2) s fun v =>
      NativeBits .x64 v (crossbarBit 32 (s.readReg rs1) (s.readReg rs2))

/-- `44_crossbar.md` R95: every destination group is zero or a copy of one whole source group; a zero data operand gives
zero; the function is a fixed wiring of `a`; identity indices give `a`. -/
def Obligations.CrossbarLaws : Prop :=
  ∀ W, W = 32 ∨ W = 64 → ∀ g ∈ [2, 3, 4, 5], ∀ a a' b : BitVec W,
    (∀ i < W / 2 ^ g, (xperm g W a b).extractLsb' (2 ^ g * i) (2 ^ g) = 0 ∨
      ∃ j < W / 2 ^ g, (xperm g W a b).extractLsb' (2 ^ g * i) (2 ^ g) = a.extractLsb' (2 ^ g * j) (2 ^ g)) ∧
    xperm g W 0 b = 0 ∧
    xperm g W (a ||| a') b = xperm g W a b ||| xperm g W a' b ∧
    xperm g W (a &&& a') b = xperm g W a b &&& xperm g W a' b ∧
    xperm g W (a ^^^ a') b = xperm g W a b ^^^ xperm g W a' b ∧
    ((∀ i < W / 2 ^ g, (b.extractLsb' (2 ^ g * i) (2 ^ g)).toNat = i) → xperm g W a b = a)

/-! ### FieldPlace -/

/-- `45_fieldplace.md` R102 with R100, R101: the command word of `bfp`, and its result by bits, for every `BFP_LEN_LSB`. -/
def Obligations.BfpByBits : Prop :=
  ∀ (s : State) (rd rs1 rs2 : Reg),
    let W := s.cfg.xlen.bits
    let lsb := match s.cfg.xlen with | .x32 => s.cfg.bfpLenLsb32 | .x64 => s.cfg.bfpLenLsb64
    (encode (.bfp rd rs1 rs2)).toNat = rs2.val * 2 ^ 22 + rs1.val * 2 ^ 17 + rd.val * 2 ^ 12 + 0b01101 ∧
    CompletesWith (.bfp rd rs1 rs2) s fun v => NativeBits s.cfg.xlen v
      (fieldPlaceBit lsb ((s.readReg rs1).setWidth W) ((s.readReg rs2).setWidth W))

/-- `45_fieldplace.md` R103, by bits: the control word of the narrow form is `RS2[31:16]`, and its tag never fires. -/
def Obligations.BfpwByBits : Prop :=
  ∀ (s : State) (rd rs1 rs2 : Reg), s.cfg.xlen = .x64 →
    CompletesWith (.bfpw rd rs1 rs2) s (fun v => NarrowBits s.cfg.narrowExt v
      (fieldPlaceBit s.cfg.bfpLenLsb32 ((s.readReg rs1).setWidth 32) ((s.readReg rs2).setWidth 32))) ∧
    fieldControl 32 ((s.readReg rs2).toNat % 2 ^ 32) = (s.readReg rs2).toNat / 2 ^ 16 % 2 ^ 16

/-- `45_fieldplace.md` R104: `bfp` changes bits of `a` only inside the field; inside it the result does not depend on `a`;
doing it twice changes nothing more. -/
def Obligations.FieldPlaceLaws : Prop :=
  ∀ W, W = 32 ∨ W = 64 → ∀ (lsb : Nat) (a a' b : BitVec W),
    let off := fieldOffset W b.toNat
    let len := fieldLength lsb W b.toNat
    (∀ i, (bfp lsb W a b ^^^ a).getLsbD i = true → off ≤ i ∧ i < min (off + len) W) ∧
    (∀ i < min (off + len) W, off ≤ i → (bfp lsb W a b).getLsbD i = b.getLsbD (i - off) ∧ i - off < W / 2) ∧
    (∀ i < min (off + len) W, off ≤ i → (bfp lsb W a b).getLsbD i = (bfp lsb W a' b).getLsbD i) ∧
    bfp lsb W (bfp lsb W a b) b = bfp lsb W a b

/-! ### CompressDecompress -/

/-- `46_compress.md` R111 with R110: the command word of `bcompress`, and its result by bits: the
data bit at the `t`-th set mask bit is result bit `t`; the rest is zero. -/
def Obligations.BcompressByBits : Prop :=
  ∀ (s : State) (rd rs1 rs2 : Reg),
    let W := s.cfg.xlen.bits
    let m := (s.readReg rs2).setWidth W
    (encode (.bcompress rd rs1 rs2)).toNat = rs2.val * 2 ^ 22 + rs1.val * 2 ^ 17 + rd.val * 2 ^ 12 + 0b01110 ∧
    CompletesWith (.bcompress rd rs1 rs2) s fun v => NativeBits s.cfg.xlen v fun t =>
      (List.range W).any fun i => m.getLsbD i && maskRank m i == t && (s.readReg rs1).getLsbD i

/-- `46_compress.md` R112 with R110: the command word of `bdecompress`, and its result by bits:
data bit `t` goes to the position of the `t`-th set mask bit; the rest is zero. -/
def Obligations.BdecompressByBits : Prop :=
  ∀ (s : State) (rd rs1 rs2 : Reg),
    let m := (s.readReg rs2).setWidth s.cfg.xlen.bits
    (encode (.bdecompress rd rs1 rs2)).toNat = rs2.val * 2 ^ 22 + rs1.val * 2 ^ 17 + rd.val * 2 ^ 12 + 0b01111 ∧
    CompletesWith (.bdecompress rd rs1 rs2) s fun v => NativeBits s.cfg.xlen v fun i =>
      m.getLsbD i && (s.readReg rs1).getLsbD (maskRank m i)

/-- `46_compress.md` R113: the two functions are inverse to each other on the bits the mask selects. -/
def Obligations.CompressLaws : Prop :=
  ∀ W, W = 32 ∨ W = 64 → ∀ a a' m : BitVec W,
    bdecompress W (bcompress W a m) m = a &&& m ∧
    bcompress W (bdecompress W a m) m = a &&& BitVec.ofNat W (2 ^ popcount m - 1) ∧
    bcompress W a m = bcompress W (a &&& m) m ∧
    bcompress W m m = BitVec.ofNat W (2 ^ popcount m - 1) ∧
    (∀ f ∈ [bcompress W, bdecompress W],
      f (a ||| a') m = f a m ||| f a' m ∧ f (a &&& a') m = f a m &&& f a' m ∧ f (a ^^^ a') m = f a m ^^^ f a' m)

/-! ### CRCKernel -/

/-- `47_crc.md` R120 to R128 read as what they compute: each CRC function is the remainder of polynomial division of its
whole operand, multiplied by `X^nbits`, by the polynomial that its reversed constant stands for. -/
def Obligations.CrcIsPolynomialRemainder : Prop :=
  ∀ (s : State) (rd rs1 : Reg),
    let W := s.cfg.xlen.bits
    let a := (s.readReg rs1).setWidth W
    ∀ row ∈ [(Instr.crc32_b rd rs1, 8, 0xEDB88320#32), (Instr.crc32_h rd rs1, 16, 0xEDB88320#32),
             (Instr.crc32_w rd rs1, 32, 0xEDB88320#32), (Instr.crc32c_b rd rs1, 8, 0x82F63B78#32),
             (Instr.crc32c_h rd rs1, 16, 0x82F63B78#32), (Instr.crc32c_w rd rs1, 32, 0x82F63B78#32)],
      CompletesWith row.1 s fun v => ∃ r : BitVec W, v = r.setWidth 64 ∧ IsCrcOf row.2.1 row.2.2 a r

/-- The same for the two 64-bit functions, in a 64-bit build (`47_crc.md` R124, R128). -/
def Obligations.Crc64IsPolynomialRemainder : Prop :=
  ∀ (s : State) (rd rs1 : Reg), s.cfg.xlen = .x64 →
    CompletesWith (.crc32_d rd rs1) s (IsCrcOf 64 0xEDB88320#32 (s.readReg rs1)) ∧
    CompletesWith (.crc32c_d rd rs1) s (IsCrcOf 64 0x82F63B78#32 (s.readReg rs1))

/-- `47_crc.md` R129 and R120 (a), (b), (c): iterations compose; each CRC is linear over XOR and maps 0 to 0; result bits at
and above `max(32, W - nbits)` are 0. -/
def Obligations.CrcLaws : Prop :=
  ∀ W, W = 32 ∨ W = 64 → ∀ (p : BitVec 32) (a a' : BitVec W) (n n' : Nat),
    crc (n + n') p W a = crc n' p W (crc n p W a) ∧
    crc n p W (a ^^^ a') = crc n p W a ^^^ crc n p W a' ∧ crc n p W 0 = 0 ∧
    ∀ i, max 32 (W - n) ≤ i → (crc n p W a).getLsbD i = false

/-! ### BitMatrix -/

/-- `48_bitmatrix.md` R130, R131, by bits: `bmatflip` is the transpose, bit `8c + r` of the result is bit `8r + c`. -/
def Obligations.BmatflipTransposes : Prop :=
  ∀ (s : State) (rd rs1 : Reg), s.cfg.xlen = .x64 →
    CompletesWith (.bmatflip rd rs1) s fun v => NativeBits .x64 v fun i =>
      (s.readReg rs1).getLsbD (8 * (i % 8) + i / 8)

/-- `48_bitmatrix.md` R132, by bits: `bmatxor` is the matrix product over GF(2). -/
def Obligations.BmatxorMultipliesOverGF2 : Prop :=
  ∀ (s : State) (rd rs1 rs2 : Reg), s.cfg.xlen = .x64 →
    CompletesWith (.bmatxor rd rs1 rs2) s fun v => NativeBits .x64 v fun i =>
      ((List.range 8).countP fun k =>
        (s.readReg rs1).getLsbD (8 * (i / 8) + k) && (s.readReg rs2).getLsbD (8 * k + i % 8)) % 2 == 1

/-- `48_bitmatrix.md` R133, by bits: `bmator` is the boolean matrix product. -/
def Obligations.BmatorMultipliesBooleans : Prop :=
  ∀ (s : State) (rd rs1 rs2 : Reg), s.cfg.xlen = .x64 →
    CompletesWith (.bmator rd rs1 rs2) s fun v => NativeBits .x64 v fun i =>
      (List.range 8).any fun k =>
        (s.readReg rs1).getLsbD (8 * (i / 8) + k) && (s.readReg rs2).getLsbD (8 * k + i % 8)

/-- `48_bitmatrix.md` R134: the transpose is an involution and reverses products; both products are associative; `bmatxor`
is linear over XOR and `bmator` distributes over OR, in each operand. -/
def Obligations.BitMatrixLaws : Prop :=
  ∀ a b c : BitVec 64,
    bmatflip (bmatflip a) = a ∧
    (∀ f ∈ [bmatxor, bmator], bmatflip (f a b) = f (bmatflip b) (bmatflip a) ∧ f (f a b) c = f a (f b c)) ∧
    bmatxor (a ^^^ b) c = bmatxor a c ^^^ bmatxor b c ∧ bmatxor c (a ^^^ b) = bmatxor c a ^^^ bmatxor c b ∧
    bmator (a ||| b) c = bmator a c ||| bmator b c ∧ bmator c (a ||| b) = bmator c a ||| bmator c b

/-! ### SelectKernel -/

/-- `49_select.md` R140: the command word of `cmov`, and its result: the first operand when the second is not zero anywhere
in its `W` bits, else the third. -/
def Obligations.CmovSelects : Prop :=
  ∀ (s : State) (rd rs1 rs2 rs3 : Reg),
    (encode (.cmov rd rs1 rs2 rs3)).toNat =
      rs3.val * 2 ^ 27 + rs2.val * 2 ^ 22 + rs1.val * 2 ^ 17 + rd.val * 2 ^ 12 + 0b11011 ∧
    CompletesWith (.cmov rd rs1 rs2 rs3) s fun v =>
      v.toNat = (if (s.readReg rs2).toNat % 2 ^ s.cfg.xlen.bits ≠ 0 then (s.readReg rs1).toNat
        else (s.readReg rs3).toNat) % 2 ^ s.cfg.xlen.bits
end

