-- ==== Sys2Proof/Laws/Decode.lean ====
section
/-! SUPPORT. The fields of a command word, read back from the word they were put into, and a command word put together
again from its fields (`30_encoding.md` R34). -/

namespace Sys2Proof

variable (rs3 rs2 rs1 rd : Reg) (n : Bool) (f : BitVec 5)

@[simp] theorem funcField_commandWord : funcField (commandWord rs3 rs2 rs1 rd n f) = f.toNat := by
  unfold funcField commandWord
  congr 1
  apply BitVec.eq_of_getLsbD_eq
  intro i hi
  simp only [BitVec.getLsbD_extractLsb', BitVec.getLsbD_append]
  interval_cases i <;> simp

@[simp] theorem narrowField_commandWord : narrowField (commandWord rs3 rs2 rs1 rd n f) = n := by
  simp only [narrowField, commandWord, BitVec.getLsbD_append, BitVec.getLsbD_ofBool]
  simp

theorem zeroField_commandWord : (commandWord rs3 rs2 rs1 rd n f).extractLsb' 6 6 = 0 := by
  apply BitVec.eq_of_getLsbD_eq
  intro i hi
  unfold commandWord
  simp only [BitVec.getLsbD_extractLsb', BitVec.getLsbD_append, BitVec.getLsbD_ofBool]
  interval_cases i <;> simp

theorem extractLsb'_12_commandWord :
    (commandWord rs3 rs2 rs1 rd n f).extractLsb' 12 5 = BitVec.ofFin (w := 5) rd := by
  apply BitVec.eq_of_getLsbD_eq
  intro i hi
  unfold commandWord
  simp only [BitVec.getLsbD_extractLsb', BitVec.getLsbD_append, BitVec.getLsbD_ofBool]
  interval_cases i <;> simp

theorem extractLsb'_17_commandWord :
    (commandWord rs3 rs2 rs1 rd n f).extractLsb' 17 5 = BitVec.ofFin (w := 5) rs1 := by
  apply BitVec.eq_of_getLsbD_eq
  intro i hi
  unfold commandWord
  simp only [BitVec.getLsbD_extractLsb', BitVec.getLsbD_append, BitVec.getLsbD_ofBool]
  interval_cases i <;> simp

theorem extractLsb'_22_commandWord :
    (commandWord rs3 rs2 rs1 rd n f).extractLsb' 22 5 = BitVec.ofFin (w := 5) rs2 := by
  apply BitVec.eq_of_getLsbD_eq
  intro i hi
  unfold commandWord
  simp only [BitVec.getLsbD_extractLsb', BitVec.getLsbD_append, BitVec.getLsbD_ofBool]
  interval_cases i <;> simp

theorem extractLsb'_27_commandWord :
    (commandWord rs3 rs2 rs1 rd n f).extractLsb' 27 5 = BitVec.ofFin (w := 5) rs3 := by
  apply BitVec.eq_of_getLsbD_eq
  intro i hi
  unfold commandWord
  simp only [BitVec.getLsbD_extractLsb', BitVec.getLsbD_append, BitVec.getLsbD_ofBool]
  interval_cases i <;> simp

@[simp] theorem regField_rd_commandWord : regField 12 (commandWord rs3 rs2 rs1 rd n f) = rd := by
  rw [regField, extractLsb'_12_commandWord]

@[simp] theorem regField_rs1_commandWord : regField 17 (commandWord rs3 rs2 rs1 rd n f) = rs1 := by
  rw [regField, extractLsb'_17_commandWord]

@[simp] theorem regField_rs2_commandWord : regField 22 (commandWord rs3 rs2 rs1 rd n f) = rs2 := by
  rw [regField, extractLsb'_22_commandWord]

@[simp] theorem regField_rs3_commandWord : regField 27 (commandWord rs3 rs2 rs1 rd n f) = rs3 := by
  rw [regField, extractLsb'_27_commandWord]

/-- Decoding a command word, in terms of the fields it was put together from: the tests of `30_encoding.md` R38 that are left
when the reserved bits are zero. -/
theorem decode_commandWord (x : Xlen) :
    decode x (commandWord rs3 rs2 rs1 rd n f) =
      if f.toNat > 0x1B then .error .functionCode
      else if n ∧ ¬ hasNarrowForm f.toNat then .error .noNarrowForm
      else if n ∧ x = .x32 then .error .narrowAt32
      else if x = .x32 ∧ needs64Bits f.toNat then .error .needs64
      else if operandCount f.toNat ≤ 2 ∧ rs3 ≠ 0 then .error .rs3Field
      else if operandCount f.toNat = 1 ∧ rs2 ≠ 0 then .error .rs2Field
      else
        match (if n then narrowInstr f.toNat rd rs1 rs2 rs3 else nativeInstr f.toNat rd rs1 rs2 rs3) with
        | some i => .ok i
        | none => .error .functionCode := by
  unfold decode reservedReason selectInstr
  simp only [zeroField_commandWord, funcField_commandWord, narrowField_commandWord, regField_rd_commandWord,
    regField_rs1_commandWord, regField_rs2_commandWord, regField_rs3_commandWord, ne_eq, not_true_eq_false, if_false]
  split_ifs <;> rfl

/-- A word whose reserved bits are zero is the command word of its own fields. -/
theorem commandWord_of_fields (w : CommandWord) (hz : w.extractLsb' 6 6 = 0) :
    commandWord (regField 27 w) (regField 22 w) (regField 17 w) (regField 12 w) (narrowField w) (w.extractLsb' 0 5) =
      w := by
  apply BitVec.eq_of_getLsbD_eq
  intro i hi
  have z : ∀ j < 6, w.getLsbD (6 + j) = false := fun j hj => by
    have := congrArg (fun v => BitVec.getLsbD v j) hz
    simpa [BitVec.getLsbD_extractLsb', hj] using this
  unfold commandWord regField narrowField
  simp only [BitVec.getLsbD_append, BitVec.getLsbD_ofBool, BitVec.ofFin_toFin, BitVec.getLsbD_extractLsb']
  interval_cases i <;> simp
  · exact z 0 (by omega)
  · exact z 1 (by omega)
  · exact z 2 (by omega)
  · exact z 3 (by omega)
  · exact z 4 (by omega)
  · exact z 5 (by omega)

end Sys2Proof
end

