-- ==== Sys2Proof/Laws/State.lean ====
section
/-! SUPPORT. What each named update of the state does to each field, so that no later proof unfolds a record update. -/

namespace Sys2Proof.Machine

/-! ### Launch and reset -/

@[simp] theorem State.launch_cfg (c : Config) (p : List CommandWord) (v : RegFile) : (State.launch c p v).cfg = c := rfl
@[simp] theorem State.launch_program (c : Config) (p : List CommandWord) (v : RegFile) :
    (State.launch c p v).program = p := rfl
@[simp] theorem State.launch_regs (c : Config) (p : List CommandWord) (v : RegFile) : (State.launch c p v).regs = v := rfl
@[simp] theorem State.launch_pc (c : Config) (p : List CommandWord) (v : RegFile) : (State.launch c p v).pc = 0 := rfl
@[simp] theorem State.launch_status (c : Config) (p : List CommandWord) (v : RegFile) :
    (State.launch c p v).status = .running := rfl

@[simp] theorem resetSequencer_cfg (v : RegFile) (s : State) : (resetSequencer v s).cfg = s.cfg := rfl
@[simp] theorem resetSequencer_program (v : RegFile) (s : State) : (resetSequencer v s).program = s.program := rfl
@[simp] theorem resetSequencer_regs (v : RegFile) (s : State) : (resetSequencer v s).regs = v := rfl
@[simp] theorem resetSequencer_pc (v : RegFile) (s : State) : (resetSequencer v s).pc = 0 := rfl

/-! ### Writing a register -/

@[simp] theorem State.writeReg_cfg (s : State) (r : Reg) (v : Word) : (s.writeReg r v).cfg = s.cfg := rfl
@[simp] theorem State.writeReg_program (s : State) (r : Reg) (v : Word) : (s.writeReg r v).program = s.program := rfl
@[simp] theorem State.writeReg_pc (s : State) (r : Reg) (v : Word) : (s.writeReg r v).pc = s.pc := rfl
@[simp] theorem State.writeReg_status (s : State) (r : Reg) (v : Word) : (s.writeReg r v).status = s.status := rfl

@[simp] theorem State.readReg_writeReg_same (s : State) (r : Reg) (v : Word) :
    (s.writeReg r v).readReg r = toXlen s.cfg.xlen v := by
  simp [State.readReg, State.writeReg]

theorem State.readReg_writeReg_ne (s : State) (v : Word) {r r' : Reg} (h : r' ≠ r) :
    (s.writeReg r v).readReg r' = s.readReg r' := by
  have h' : (r : Nat) ≠ r' := fun e => h (Fin.ext e.symm)
  simp [State.readReg, State.writeReg, h']

/-! ### Advancing the program counter -/

@[simp] theorem State.advancePc_cfg (s : State) : s.advancePc.cfg = s.cfg := rfl
@[simp] theorem State.advancePc_program (s : State) : s.advancePc.program = s.program := rfl
@[simp] theorem State.advancePc_pc (s : State) : s.advancePc.pc = s.pc + 1 := rfl
@[simp] theorem State.advancePc_status (s : State) : s.advancePc.status = s.status := rfl
@[simp] theorem State.advancePc_readReg (s : State) (r : Reg) : s.advancePc.readReg r = s.readReg r := rfl

/-! ### Taking the exception -/

@[simp] theorem raiseReserved_cfg (w : CommandWord) (s : State) : (raiseReserved w s).cfg = s.cfg := rfl
@[simp] theorem raiseReserved_program (w : CommandWord) (s : State) : (raiseReserved w s).program = s.program := rfl
@[simp] theorem raiseReserved_pc (w : CommandWord) (s : State) : (raiseReserved w s).pc = s.pc := rfl
@[simp] theorem raiseReserved_status (w : CommandWord) (s : State) :
    (raiseReserved w s).status = .faulted .reservedCommand s.pc w := rfl
@[simp] theorem raiseReserved_readReg (w : CommandWord) (s : State) (r : Reg) :
    (raiseReserved w s).readReg r = s.readReg r := rfl

/-! ### Halting -/

@[simp] theorem haltRun_cfg (s : State) : (haltRun s).cfg = s.cfg := rfl
@[simp] theorem haltRun_program (s : State) : (haltRun s).program = s.program := rfl
@[simp] theorem haltRun_pc (s : State) : (haltRun s).pc = s.pc := rfl
@[simp] theorem haltRun_status (s : State) : (haltRun s).status = .halted := rfl
@[simp] theorem haltRun_readReg (s : State) (r : Reg) : (haltRun s).readReg r = s.readReg r := rfl

/-! ### Placing an instruction -/

@[simp] theorem State.withFetchWord_cfg (s : State) (n w : Nat) : (s.withFetchWord n w).cfg = s.cfg := rfl
@[simp] theorem State.withFetchWord_pc (s : State) (n w : Nat) : (s.withFetchWord n w).pc = s.pc := rfl
@[simp] theorem State.withFetchWord_regs (s : State) (n w : Nat) : (s.withFetchWord n w).regs = s.regs := rfl
@[simp] theorem State.withFetchWord_status (s : State) (n w : Nat) : (s.withFetchWord n w).status = .running := rfl

/-- The word placed is the one the next step fetches. -/
theorem placeWord_getElem? (p : List CommandWord) (n : Nat) (w : CommandWord) : (placeWord p n w)[n]? = some w := by
  have h : (p.take n ++ List.replicate (n - p.length) (0 : CommandWord)).length = n := by
    simp only [List.length_append, List.length_take, List.length_replicate]; omega
  unfold placeWord
  rw [List.append_assoc, List.getElem?_append_right (by omega), h]
  simp

theorem State.withFetchWord_fetch (s : State) (n w : Nat) :
    (s.withFetchWord n w).fetch = .word (BitVec.ofNat 32 (w % 2 ^ n)) := by
  have h := placeWord_getElem? s.program s.pc (BitVec.ofNat 32 (w % 2 ^ n))
  simp [State.fetch, State.withFetchWord, h]

end Sys2Proof.Machine
end

