-- ==== Sys2Proof/Laws/Ops.lean ====
section
/-! SUPPORT. One lemma for each shared operation of the sequencer that says everything it can do: completing a command,
the guard of the 64-bit operations, fetching, and the step. -/

namespace Sys2Proof.Machine

/-! ### Values of the build's width -/

@[simp] theorem toXlen_x64 (v : Word) : toXlen .x64 v = v := by simp [toXlen]

theorem toXlen_x32 (v : Word) : toXlen .x32 v = (v.setWidth 32).setWidth 64 := rfl

theorem toXlen_toNat (x : Xlen) (v : Word) : (toXlen x v).toNat = v.toNat % 2 ^ x.bits := by
  have h := v.isLt
  cases x <;> simp only [toXlen, BitVec.toNat_setWidth, Xlen.bits] <;> omega

theorem toXlen_lt (x : Xlen) (v : Word) : (toXlen x v).toNat < 2 ^ x.bits := by
  rw [toXlen_toNat]; exact Nat.mod_lt _ (Nat.two_pow_pos _)

theorem toXlen_of_lt {x : Xlen} {v : Word} (h : v.toNat < 2 ^ x.bits) : toXlen x v = v := by
  apply BitVec.eq_of_toNat_eq; rw [toXlen_toNat, Nat.mod_eq_of_lt h]

/-- A native result already has the build's width. -/
@[simp] theorem toXlen_extendNative (x : Xlen) (r : BitVec x.bits) : toXlen x (extendNative r) = extendNative r := by
  apply toXlen_of_lt
  cases x <;> simp only [extendNative, BitVec.toNat_setWidth, Xlen.bits] <;> omega

theorem extendNative_getLsbD (x : Xlen) (r : BitVec x.bits) (i : Nat) :
    (extendNative r).getLsbD i = r.getLsbD i := by
  cases x <;> simp only [extendNative, BitVec.getLsbD_setWidth, Xlen.bits]
  · by_cases h : i < 64
    · simp [h]
    · simp [h, BitVec.getLsbD_of_ge r i (by simp only [Xlen.bits]; omega)]
  · by_cases h : i < 64
    · simp [h]
    · simp [h, BitVec.getLsbD_of_ge r i (by simp only [Xlen.bits]; omega)]

theorem nativeBits_extendNative (x : Xlen) (r : BitVec x.bits) (bit : Nat → Bool)
    (h : ∀ i < x.bits, r.getLsbD i = bit i) : NativeBits x (extendNative r) bit := by
  intro i
  rw [extendNative_getLsbD]
  by_cases hi : i < x.bits
  · rw [h i hi, decide_eq_true hi, Bool.true_and]
  · rw [BitVec.getLsbD_of_ge r i (by omega), decide_eq_false hi, Bool.false_and]

theorem narrowBits_extendNarrow (e : NarrowExt) (r : BitVec 32) (bit : Nat → Bool)
    (h : ∀ i < 32, r.getLsbD i = bit i) : NarrowBits e (extendNarrow e r) bit := by
  intro i hi
  have hm : r.msb = bit 31 := by rw [BitVec.msb_eq_getLsbD_last, h 31 (by omega)]
  by_cases h32 : i < 32
  · cases e <;> simp only [extendNarrow, BitVec.getLsbD_signExtend, BitVec.getLsbD_setWidth, hi, h32, if_true,
      decide_true, Bool.true_and] <;> exact h i h32
  · cases e
    · simp only [extendNarrow, BitVec.getLsbD_signExtend, hi, h32, hm, if_false, decide_true, Bool.true_and,
        beq_self_eq_true]
    · simp only [extendNarrow, BitVec.getLsbD_setWidth, BitVec.getLsbD_of_ge r i (by omega), h32, if_false,
        Bool.and_false]
      rfl

/-! ### Completing a command -/

/-- A completed command: the frame, and the value of the destination. -/
theorem completeCommand_spec (rd : Reg) (v : Word) (s : State) :
    ∃ t, completeCommand rd v s = .next t ∧ State.OnlyWrites rd s t ∧ t.readReg rd = toXlen s.cfg.xlen v :=
  ⟨_, rfl,
    { pc := rfl, status := rfl, program := rfl, cfg := rfl
      others := fun r h => by rw [State.advancePc_readReg, State.readReg_writeReg_ne s v h] },
    by simp⟩

/-- How a statement about a completed command is proved: the value written satisfies it. -/
theorem completesWith_of_exec {i : Instr} {s : State} {v : Word} {res : Word → Prop}
    (h : exec i s = completeCommand i.rd v s) (hv : res (toXlen s.cfg.xlen v)) : CompletesWith i s res := by
  obtain ⟨t, ht, hw, hr⟩ := completeCommand_spec i.rd v s
  exact ⟨t, h.trans ht, hw, hr ▸ hv⟩

theorem require64_x64 {i : Instr} {s : State} {k : Host.Outcome State Fault Refusal} (h : s.cfg.xlen = .x64) :
    require64 i s k = k := by simp [require64, h]

theorem require64_x32 {i : Instr} {s : State} {k : Host.Outcome State Fault Refusal} (h : s.cfg.xlen = .x32) :
    require64 i s k = .next (raiseReserved (encode i) s) := by simp [require64, h]

/-- Registers of `XLEN` bits stay so when one of them is written. -/
theorem writeReg_keeps_regsFit {s : State} (h : s.RegsFit) (r : Reg) (v : Word) : (s.writeReg r v).RegsFit := by
  intro r'
  by_cases e : r' = r
  · subst e; simpa using toXlen_lt s.cfg.xlen v
  · rw [State.readReg_writeReg_ne s v e]; exact h r'

/-! ### Fetch and step -/

/-- What fetching can answer. -/
theorem fetch_cases (s : State) :
    (∃ w, s.program[s.pc]? = some w ∧ s.fetch = .word w ∧ s.pc < s.program.length) ∨
      (s.pc = s.program.length ∧ s.fetch = .atEnd) ∨ (s.program.length < s.pc ∧ s.fetch = .beyond) := by
  unfold State.fetch
  rcases Nat.lt_trichotomy s.pc s.program.length with h | h | h
  · exact .inl ⟨_, List.getElem?_eq_getElem h, by simp [List.getElem?_eq_getElem h], h⟩
  · exact .inr (.inl ⟨h, by simp [h]⟩)
  · refine .inr (.inr ⟨h, ?_⟩)
    rw [List.getElem?_eq_none (by omega)]
    simp [Nat.ne_of_gt h]

theorem fetch_of_getElem? {s : State} {w : CommandWord} (h : s.program[s.pc]? = some w) : s.fetch = .word w := by
  simp [State.fetch, h]

/-- Everything a step that answers a next state has done: executed an accepted word, taken the fault on a reserved one, or
halted at the end of the program. -/
theorem step_cases {s t : State} (h : step s = .next t) :
    s.status = .running ∧
      ((∃ w i, s.program[s.pc]? = some w ∧ decode s.cfg.xlen w = .ok i ∧ exec i s = .next t) ∨
        (∃ w, s.program[s.pc]? = some w ∧ isReserved s.cfg.xlen w = true ∧ t = raiseReserved w s) ∨
        (s.pc = s.program.length ∧ t = haltRun s)) := by
  unfold step at h
  split at h
  · cases h
  · cases h
  · rename_i hs
    refine ⟨hs, ?_⟩
    obtain ⟨w, hw, hf, -⟩ | ⟨he, hf⟩ | ⟨-, hf⟩ := fetch_cases s
    · rw [hf] at h
      simp only at h
      split at h
      · rename_i r hd
        exact .inr (.inl ⟨w, hw, by simp [isReserved, hd], by simpa using h.symm⟩)
      · rename_i i hd
        exact .inl ⟨w, i, hw, hd, h⟩
    · rw [hf] at h; exact .inr (.inr ⟨he, by simpa using h.symm⟩)
    · rw [hf] at h; cases h

end Sys2Proof.Machine
end

