-- ==== Sys2Proof/Laws/Operands.lean ====
section
/-! SUPPORT. The operand and result forms: what each form is in each build, that a native result has the build's width, and
how a result is proved bit by bit. The build stays an argument, so that a rewrite of `XLEN` meets no dependent type. -/

namespace Sys2Proof.Machine

section forms

variable (f1 : (W : Nat) → BitVec W → BitVec W)
variable (f2 : (W : Nat) → BitVec W → BitVec W → BitVec W)
variable (f3 : (W : Nat) → BitVec W → BitVec W → BitVec W → BitVec W)
variable (x : Xlen) (e : NarrowExt) (va vb vc : Word)

/-! ### In a 64-bit build an operand is the whole port -/

@[simp] theorem truncOperand_64 : truncOperand 64 va = va := BitVec.setWidth_eq va

theorem native1_x64 : native1 .x64 f1 va = f1 64 va := by simp [native1, extendNative]
theorem native2_x64 : native2 .x64 f2 va vb = f2 64 va vb := by simp [native2, extendNative]
theorem native3_x64 : native3 .x64 f3 va vb vc = f3 64 va vb vc := by simp [native3, extendNative]

/-! ### In a 32-bit build it is the low half -/

theorem native1_x32 : native1 .x32 f1 va = (f1 32 (va.setWidth 32)).setWidth 64 := rfl
theorem native2_x32 : native2 .x32 f2 va vb = (f2 32 (va.setWidth 32) (vb.setWidth 32)).setWidth 64 := rfl
theorem native3_x32 :
    native3 .x32 f3 va vb vc = (f3 32 (va.setWidth 32) (vb.setWidth 32) (vc.setWidth 32)).setWidth 64 := rfl

/-! ### A native result has the build's width -/

@[simp] theorem toXlen_native1 : toXlen x (native1 x f1 va) = native1 x f1 va := toXlen_extendNative x _
@[simp] theorem toXlen_native2 : toXlen x (native2 x f2 va vb) = native2 x f2 va vb := toXlen_extendNative x _
@[simp] theorem toXlen_native3 : toXlen x (native3 x f3 va vb vc) = native3 x f3 va vb vc := toXlen_extendNative x _

/-! ### Results bit by bit -/

variable {f1 f2 f3 x e va vb vc}

theorem nativeBits_native1 {bit : Nat → Bool} (h : ∀ i < x.bits, (f1 x.bits (va.setWidth x.bits)).getLsbD i = bit i) :
    NativeBits x (native1 x f1 va) bit := nativeBits_extendNative x _ bit h

theorem nativeBits_native2 {bit : Nat → Bool}
    (h : ∀ i < x.bits, (f2 x.bits (va.setWidth x.bits) (vb.setWidth x.bits)).getLsbD i = bit i) :
    NativeBits x (native2 x f2 va vb) bit := nativeBits_extendNative x _ bit h

theorem nativeBits_native3 {bit : Nat → Bool}
    (h : ∀ i < x.bits, (f3 x.bits (va.setWidth x.bits) (vb.setWidth x.bits) (vc.setWidth x.bits)).getLsbD i = bit i) :
    NativeBits x (native3 x f3 va vb vc) bit := nativeBits_extendNative x _ bit h

theorem narrowBits_narrow2 {bit : Nat → Bool}
    (h : ∀ i < 32, (f2 32 (va.setWidth 32) (vb.setWidth 32)).getLsbD i = bit i) :
    NarrowBits e (narrow2 e f2 va vb) bit := narrowBits_extendNarrow e _ bit h

theorem narrowBits_narrow3 {bit : Nat → Bool}
    (h : ∀ i < 32, (f3 32 (va.setWidth 32) (vb.setWidth 32) (vc.setWidth 32)).getLsbD i = bit i) :
    NarrowBits e (narrow3 e f3 va vb vc) bit := narrowBits_extendNarrow e _ bit h

end forms

/-- The operand width of a native operation is 32 or 64 (`00_scope.md` R3). -/
theorem Xlen.bits_cases (x : Xlen) : x.bits = 32 ∨ x.bits = 64 := by cases x <;> simp

end Sys2Proof.Machine
end

