-- ==== Sys2Proof/Laws/PerInstr.lean ====
section
/-! SUPPORT. Facts about every instruction as syntax, one lemma per constructor. -/

namespace Sys2Proof.Laws.EncodedFields

/-- The encoding of `i` has zero reserved bits, the narrow flag of `i` in bit 5 and its destination in bits 16:12. -/
def Statement (i : Instr) : Prop :=
  (encode i).extractLsb' 6 6 = 0 ∧ narrowField (encode i) = i.isNarrow ∧ regField 12 (encode i) = i.rd

theorem grev (rd rs1 rs2 : Reg) : Statement (.grev rd rs1 rs2) :=
  ⟨zeroField_commandWord .., narrowField_commandWord .., regField_rd_commandWord ..⟩

theorem grevw (rd rs1 rs2 : Reg) : Statement (.grevw rd rs1 rs2) :=
  ⟨zeroField_commandWord .., narrowField_commandWord .., regField_rd_commandWord ..⟩

theorem gorc (rd rs1 rs2 : Reg) : Statement (.gorc rd rs1 rs2) :=
  ⟨zeroField_commandWord .., narrowField_commandWord .., regField_rd_commandWord ..⟩

theorem gorcw (rd rs1 rs2 : Reg) : Statement (.gorcw rd rs1 rs2) :=
  ⟨zeroField_commandWord .., narrowField_commandWord .., regField_rd_commandWord ..⟩

theorem clmul (rd rs1 rs2 : Reg) : Statement (.clmul rd rs1 rs2) :=
  ⟨zeroField_commandWord .., narrowField_commandWord .., regField_rd_commandWord ..⟩

theorem clmulh (rd rs1 rs2 : Reg) : Statement (.clmulh rd rs1 rs2) :=
  ⟨zeroField_commandWord .., narrowField_commandWord .., regField_rd_commandWord ..⟩

theorem clmulr (rd rs1 rs2 : Reg) : Statement (.clmulr rd rs1 rs2) :=
  ⟨zeroField_commandWord .., narrowField_commandWord .., regField_rd_commandWord ..⟩

theorem fsl (rd rs1 rs2 rs3 : Reg) : Statement (.fsl rd rs1 rs2 rs3) :=
  ⟨zeroField_commandWord .., narrowField_commandWord .., regField_rd_commandWord ..⟩

theorem fslw (rd rs1 rs2 rs3 : Reg) : Statement (.fslw rd rs1 rs2 rs3) :=
  ⟨zeroField_commandWord .., narrowField_commandWord .., regField_rd_commandWord ..⟩

theorem fsr (rd rs1 rs2 rs3 : Reg) : Statement (.fsr rd rs1 rs2 rs3) :=
  ⟨zeroField_commandWord .., narrowField_commandWord .., regField_rd_commandWord ..⟩

theorem fsrw (rd rs1 rs2 rs3 : Reg) : Statement (.fsrw rd rs1 rs2 rs3) :=
  ⟨zeroField_commandWord .., narrowField_commandWord .., regField_rd_commandWord ..⟩

theorem shfl (rd rs1 rs2 : Reg) : Statement (.shfl rd rs1 rs2) :=
  ⟨zeroField_commandWord .., narrowField_commandWord .., regField_rd_commandWord ..⟩

theorem shflw (rd rs1 rs2 : Reg) : Statement (.shflw rd rs1 rs2) :=
  ⟨zeroField_commandWord .., narrowField_commandWord .., regField_rd_commandWord ..⟩

theorem unshfl (rd rs1 rs2 : Reg) : Statement (.unshfl rd rs1 rs2) :=
  ⟨zeroField_commandWord .., narrowField_commandWord .., regField_rd_commandWord ..⟩

theorem unshflw (rd rs1 rs2 : Reg) : Statement (.unshflw rd rs1 rs2) :=
  ⟨zeroField_commandWord .., narrowField_commandWord .., regField_rd_commandWord ..⟩

theorem xperm_n (rd rs1 rs2 : Reg) : Statement (.xperm_n rd rs1 rs2) :=
  ⟨zeroField_commandWord .., narrowField_commandWord .., regField_rd_commandWord ..⟩

theorem xperm_b (rd rs1 rs2 : Reg) : Statement (.xperm_b rd rs1 rs2) :=
  ⟨zeroField_commandWord .., narrowField_commandWord .., regField_rd_commandWord ..⟩

theorem xperm_h (rd rs1 rs2 : Reg) : Statement (.xperm_h rd rs1 rs2) :=
  ⟨zeroField_commandWord .., narrowField_commandWord .., regField_rd_commandWord ..⟩

theorem xperm_w (rd rs1 rs2 : Reg) : Statement (.xperm_w rd rs1 rs2) :=
  ⟨zeroField_commandWord .., narrowField_commandWord .., regField_rd_commandWord ..⟩

theorem bfp (rd rs1 rs2 : Reg) : Statement (.bfp rd rs1 rs2) :=
  ⟨zeroField_commandWord .., narrowField_commandWord .., regField_rd_commandWord ..⟩

theorem bfpw (rd rs1 rs2 : Reg) : Statement (.bfpw rd rs1 rs2) :=
  ⟨zeroField_commandWord .., narrowField_commandWord .., regField_rd_commandWord ..⟩

theorem bcompress (rd rs1 rs2 : Reg) : Statement (.bcompress rd rs1 rs2) :=
  ⟨zeroField_commandWord .., narrowField_commandWord .., regField_rd_commandWord ..⟩

theorem bdecompress (rd rs1 rs2 : Reg) : Statement (.bdecompress rd rs1 rs2) :=
  ⟨zeroField_commandWord .., narrowField_commandWord .., regField_rd_commandWord ..⟩

theorem crc32_b (rd rs1 : Reg) : Statement (.crc32_b rd rs1) :=
  ⟨zeroField_commandWord .., narrowField_commandWord .., regField_rd_commandWord ..⟩

theorem crc32_h (rd rs1 : Reg) : Statement (.crc32_h rd rs1) :=
  ⟨zeroField_commandWord .., narrowField_commandWord .., regField_rd_commandWord ..⟩

theorem crc32_w (rd rs1 : Reg) : Statement (.crc32_w rd rs1) :=
  ⟨zeroField_commandWord .., narrowField_commandWord .., regField_rd_commandWord ..⟩

theorem crc32_d (rd rs1 : Reg) : Statement (.crc32_d rd rs1) :=
  ⟨zeroField_commandWord .., narrowField_commandWord .., regField_rd_commandWord ..⟩

theorem crc32c_b (rd rs1 : Reg) : Statement (.crc32c_b rd rs1) :=
  ⟨zeroField_commandWord .., narrowField_commandWord .., regField_rd_commandWord ..⟩

theorem crc32c_h (rd rs1 : Reg) : Statement (.crc32c_h rd rs1) :=
  ⟨zeroField_commandWord .., narrowField_commandWord .., regField_rd_commandWord ..⟩

theorem crc32c_w (rd rs1 : Reg) : Statement (.crc32c_w rd rs1) :=
  ⟨zeroField_commandWord .., narrowField_commandWord .., regField_rd_commandWord ..⟩

theorem crc32c_d (rd rs1 : Reg) : Statement (.crc32c_d rd rs1) :=
  ⟨zeroField_commandWord .., narrowField_commandWord .., regField_rd_commandWord ..⟩

theorem bmatflip (rd rs1 : Reg) : Statement (.bmatflip rd rs1) :=
  ⟨zeroField_commandWord .., narrowField_commandWord .., regField_rd_commandWord ..⟩

theorem bmatxor (rd rs1 rs2 : Reg) : Statement (.bmatxor rd rs1 rs2) :=
  ⟨zeroField_commandWord .., narrowField_commandWord .., regField_rd_commandWord ..⟩

theorem bmator (rd rs1 rs2 : Reg) : Statement (.bmator rd rs1 rs2) :=
  ⟨zeroField_commandWord .., narrowField_commandWord .., regField_rd_commandWord ..⟩

theorem cmov (rd rs1 rs2 rs3 : Reg) : Statement (.cmov rd rs1 rs2 rs3) :=
  ⟨zeroField_commandWord .., narrowField_commandWord .., regField_rd_commandWord ..⟩

end Sys2Proof.Laws.EncodedFields
end

