-- ==== Sys2Proof/Laws/Stages.lean ====
section
/-! SUPPORT. One stage of the butterfly network and one stage of the shuffle network, bit by bit: the mask arithmetic of
`40_bitpermute.md` R51 and `43_shuffle.md` R81 as a movement of bit positions. -/

namespace Sys2Proof.Machine

/-- The pattern of the adjacency masks (`40_bitpermute.md` R50). -/
theorem adjacencyMask_testBit : ∀ j < 6, ∀ i < 64, (adjacencyMask j).testBit i = !i.testBit j := by decide +kernel

/-- The pattern of the shuffle masks (`43_shuffle.md` R80). -/
theorem shuffleMask_testBit :
    ∀ j < 5, ∀ i < 64, (shuffleMask j).testBit i = (i.testBit (j + 1) && !i.testBit j) := by decide +kernel

theorem shuffleMask_shift_testBit :
    ∀ j < 5, ∀ i < 64, (shuffleMask j >>> 2 ^ j).testBit i = (!i.testBit (j + 1) && i.testBit j) := by decide +kernel

/-- Flipping index bit `j` of a position that has it set moves down by `2^j`, otherwise up; a position `2^j` lower has it
the other way round. -/
theorem xor_two_pow_cases : ∀ j < 6, ∀ i < 64,
    (i.testBit j = true → 2 ^ j ≤ i ∧ i ^^^ 2 ^ j = i - 2 ^ j ∧ (i - 2 ^ j).testBit j = false) ∧
      (i.testBit j = false → i ^^^ 2 ^ j = i + 2 ^ j ∧ (2 ^ j ≤ i → (i - 2 ^ j).testBit j = true)) := by
  decide +kernel

variable {W : Nat}

theorem log2_width_le (hW : W = 32 ∨ W = 64) : Nat.log2 W ≤ 6 ∧ W ≤ 64 ∧ W = 2 ^ Nat.log2 W := by
  rcases hW with rfl | rfl <;> decide

/-- Flipping an index bit below `log2 W` stays inside the word. -/
theorem xor_lt_width (hW : W = 32 ∨ W = 64) {i j : Nat} (hi : i < W) (hj : j < Nat.log2 W) : i ^^^ 2 ^ j < W := by
  obtain ⟨-, -, h2⟩ := log2_width_le hW
  rw [h2] at hi ⊢
  exact Nat.xor_lt_two_pow hi (Nat.pow_lt_pow_right (by omega) (by rw [h2] at hj; simpa using hj))

/-- `swap_W(x, 2^j)`: bit `i` of the result is bit `i xor 2^j` of `x` (`40_bitpermute.md` R51). -/
theorem swapStage_getLsbD (hW : W = 32 ∨ W = 64) (x : BitVec W) {i j : Nat} (hi : i < W) (hj : j < Nat.log2 W) :
    (swapStage x j).getLsbD i = x.getLsbD (i ^^^ 2 ^ j) := by
  obtain ⟨hl, h64, -⟩ := log2_width_le hW
  have hlt := xor_lt_width hW hi hj
  have hm := adjacencyMask_testBit j (by omega)
  obtain ⟨hdown, hup⟩ := xor_two_pow_cases j (by omega) i (by omega)
  simp only [swapStage, adjacency, BitVec.getLsbD_or, BitVec.getLsbD_and, BitVec.getLsbD_shiftLeft,
    BitVec.getLsbD_ushiftRight, BitVec.getLsbD_ofNat, hi, decide_true, Bool.true_and, hm i (by omega)]
  cases hb : i.testBit j
  · obtain ⟨e, hlow⟩ := hup hb
    rw [e, Nat.add_comm]
    by_cases hs : i < 2 ^ j
    · simp [hs]
    · have hflip := hlow (Nat.not_lt.mp hs)
      rw [hm (i - 2 ^ j) (lt_of_le_of_lt (Nat.sub_le ..) (by omega)), hflip]
      simp
  · obtain ⟨hle, e, hlow⟩ := hdown hb
    rw [e, hm (i - 2 ^ j) (lt_of_le_of_lt (Nat.sub_le ..) (by omega)), hlow]
    simp [Nat.not_lt.mpr hle, show i - 2 ^ j < W by omega]

/-- `merge_W(x, 2^j)`: bit `i` of the result is the OR of bits `i` and `i xor 2^j` of `x` (`40_bitpermute.md` R51). -/
theorem mergeStage_getLsbD (hW : W = 32 ∨ W = 64) (x : BitVec W) {i j : Nat} (hi : i < W) (hj : j < Nat.log2 W) :
    (mergeStage x j).getLsbD i = (x.getLsbD i || x.getLsbD (i ^^^ 2 ^ j)) := by
  rw [mergeStage, BitVec.getLsbD_or, swapStage_getLsbD hW x hi hj]

/-- Where index bits `j` and `j + 1` differ, exchanging them moves by `2^j`. -/
theorem shuffle_index_cases : ∀ j < 5, ∀ p < 64,
    (p.testBit (j + 1) = true → p.testBit j = false → 2 ^ j ≤ p ∧ p ^^^ (3 * 2 ^ j) = p - 2 ^ j) ∧
      (p.testBit (j + 1) = false → p.testBit j = true → p ^^^ (3 * 2 ^ j) = p + 2 ^ j) := by decide +kernel

/-- `stage_W(x, 2^j)`: bit `p` of the result is bit `p'` of `x`, where `p'` is `p` with its index bits `j` and `j + 1`
exchanged (`43_shuffle.md` R81). -/
theorem shuffleStage_getLsbD (hW : W = 32 ∨ W = 64) (x : BitVec W) {p j : Nat} (hp : p < W) (hj : j + 1 < Nat.log2 W) :
    (shuffleStage x j).getLsbD p =
      x.getLsbD (if p.testBit j = p.testBit (j + 1) then p else p ^^^ (3 * 2 ^ j)) := by
  obtain ⟨hl, h64, -⟩ := log2_width_le hW
  obtain ⟨hdown, hup⟩ := shuffle_index_cases j (by omega) p (by omega)
  simp only [shuffleStage, shuffleLeft, shuffleRight, BitVec.getLsbD_or, BitVec.getLsbD_and, BitVec.getLsbD_not,
    BitVec.getLsbD_shiftLeft, BitVec.getLsbD_ushiftRight, BitVec.getLsbD_ofNat, hp, decide_true, Bool.true_and,
    shuffleMask_testBit j (by omega) p (by omega), shuffleMask_shift_testBit j (by omega) p (by omega)]
  cases h1 : p.testBit (j + 1) <;> cases h0 : p.testBit j <;> simp
  · rw [hup h1 h0, Nat.add_comm]
  · obtain ⟨hle, e⟩ := hdown h1 h0
    rw [e]; simp [Nat.not_lt.mpr hle]

end Sys2Proof.Machine
end

