-- ==== Sys2Proof/Tests/Slice0.lean ====
section
/-! SUPPORT. The model's own tests: ill-formed terms, one written-out word and one vector of the spec per instruction, the
sequencer's steps, and for each statement with hypotheses a state and operands that meet them. Every expected value is the
spec's; each test names where it stands. -/

namespace Sys2Proof.Tests

-- One theorem at a time: each `decide +kernel` holds a thread while it waits for the kernel.
set_option Elab.async false

open Sys2Proof Sys2Proof.Machine Sys2Proof.Claims

/-! ### WellFormed refuses ill-formed terms -/

theorem test_wellFormed_refuses_narrow_at_32 : (Instr.grevw 3 1 2).narrowFits .x32 = false ∧
    wellFormed .x32 (.grevw 3 1 2) = false := by decide

theorem test_wellFormed_refuses_needs64_at_32 : (Instr.bmatflip 4 1).widthFits .x32 = false ∧
    wellFormed .x32 (.bmatflip 4 1) = false := by decide

/-! ### Words written out from the patterns of `30_encoding.md` R34 and the family files -/

theorem test_decode_grev :
    decode .x64 0b00000_10010_01001_00101_000000_0_00000 = .ok (.grev 5 9 18) := by decide

theorem test_decode_grevw :
    decode .x64 0b00000_10010_01001_00101_000000_1_00000 = .ok (.grevw 5 9 18) := by decide

theorem test_decode_gorc :
    decode .x64 0b00000_10010_01001_00101_000000_0_00001 = .ok (.gorc 5 9 18) := by decide

theorem test_decode_gorcw :
    decode .x64 0b00000_10010_01001_00101_000000_1_00001 = .ok (.gorcw 5 9 18) := by decide

theorem test_decode_clmul :
    decode .x64 0b00000_10010_01001_00101_000000_0_00010 = .ok (.clmul 5 9 18) := by decide

theorem test_decode_clmulh :
    decode .x64 0b00000_10010_01001_00101_000000_0_00011 = .ok (.clmulh 5 9 18) := by decide

theorem test_decode_clmulr :
    decode .x64 0b00000_10010_01001_00101_000000_0_00100 = .ok (.clmulr 5 9 18) := by decide

theorem test_decode_fsl :
    decode .x64 0b11110_10010_01001_00101_000000_0_00101 = .ok (.fsl 5 9 18 30) := by decide

theorem test_decode_fslw :
    decode .x64 0b11110_10010_01001_00101_000000_1_00101 = .ok (.fslw 5 9 18 30) := by decide

theorem test_decode_fsr :
    decode .x64 0b11110_10010_01001_00101_000000_0_00110 = .ok (.fsr 5 9 18 30) := by decide

theorem test_decode_fsrw :
    decode .x64 0b11110_10010_01001_00101_000000_1_00110 = .ok (.fsrw 5 9 18 30) := by decide

theorem test_decode_shfl :
    decode .x64 0b00000_10010_01001_00101_000000_0_00111 = .ok (.shfl 5 9 18) := by decide

theorem test_decode_shflw :
    decode .x64 0b00000_10010_01001_00101_000000_1_00111 = .ok (.shflw 5 9 18) := by decide

theorem test_decode_unshfl :
    decode .x64 0b00000_10010_01001_00101_000000_0_01000 = .ok (.unshfl 5 9 18) := by decide

theorem test_decode_unshflw :
    decode .x64 0b00000_10010_01001_00101_000000_1_01000 = .ok (.unshflw 5 9 18) := by decide

theorem test_decode_xperm_n :
    decode .x64 0b00000_10010_01001_00101_000000_0_01001 = .ok (.xperm_n 5 9 18) := by decide

theorem test_decode_xperm_b :
    decode .x64 0b00000_10010_01001_00101_000000_0_01010 = .ok (.xperm_b 5 9 18) := by decide

theorem test_decode_xperm_h :
    decode .x64 0b00000_10010_01001_00101_000000_0_01011 = .ok (.xperm_h 5 9 18) := by decide

theorem test_decode_xperm_w :
    decode .x64 0b00000_10010_01001_00101_000000_0_01100 = .ok (.xperm_w 5 9 18) := by decide

theorem test_decode_bfp :
    decode .x64 0b00000_10010_01001_00101_000000_0_01101 = .ok (.bfp 5 9 18) := by decide

theorem test_decode_bfpw :
    decode .x64 0b00000_10010_01001_00101_000000_1_01101 = .ok (.bfpw 5 9 18) := by decide

theorem test_decode_bcompress :
    decode .x64 0b00000_10010_01001_00101_000000_0_01110 = .ok (.bcompress 5 9 18) := by decide

theorem test_decode_bdecompress :
    decode .x64 0b00000_10010_01001_00101_000000_0_01111 = .ok (.bdecompress 5 9 18) := by decide

theorem test_decode_crc32_b :
    decode .x64 0b00000_00000_01001_00101_000000_0_10000 = .ok (.crc32_b 5 9) := by decide

theorem test_decode_crc32_h :
    decode .x64 0b00000_00000_01001_00101_000000_0_10001 = .ok (.crc32_h 5 9) := by decide

theorem test_decode_crc32_w :
    decode .x64 0b00000_00000_01001_00101_000000_0_10010 = .ok (.crc32_w 5 9) := by decide

theorem test_decode_crc32_d :
    decode .x64 0b00000_00000_01001_00101_000000_0_10011 = .ok (.crc32_d 5 9) := by decide

theorem test_decode_crc32c_b :
    decode .x64 0b00000_00000_01001_00101_000000_0_10100 = .ok (.crc32c_b 5 9) := by decide

theorem test_decode_crc32c_h :
    decode .x64 0b00000_00000_01001_00101_000000_0_10101 = .ok (.crc32c_h 5 9) := by decide

theorem test_decode_crc32c_w :
    decode .x64 0b00000_00000_01001_00101_000000_0_10110 = .ok (.crc32c_w 5 9) := by decide

theorem test_decode_crc32c_d :
    decode .x64 0b00000_00000_01001_00101_000000_0_10111 = .ok (.crc32c_d 5 9) := by decide

theorem test_decode_bmatflip :
    decode .x64 0b00000_00000_01001_00101_000000_0_11000 = .ok (.bmatflip 5 9) := by decide

theorem test_decode_bmatxor :
    decode .x64 0b00000_10010_01001_00101_000000_0_11001 = .ok (.bmatxor 5 9 18) := by decide

theorem test_decode_bmator :
    decode .x64 0b00000_10010_01001_00101_000000_0_11010 = .ok (.bmator 5 9 18) := by decide

theorem test_decode_cmov :
    decode .x64 0b11110_10010_01001_00101_000000_0_11011 = .ok (.cmov 5 9 18 30) := by decide

/-! ### Reserved words (`95_test_vectors.md` section 2.12) -/

theorem test_reserved_words :
    decode .x64 0x00823040 = .error .zeroField ∧ decode .x64 0x0082301F = .error .functionCode ∧
    decode .x64 0x0082303B = .error .noNarrowForm ∧ decode .x32 0x00823020 = .error .narrowAt32 ∧
    decode .x32 0x00000017 = .error .needs64 ∧ decode .x64 0x08022018 = .error .rs3Field ∧
    decode .x64 0x00822010 = .error .rs2Field := by decide

/-! ### One vector of the spec per instruction -/

/-- A state about to run the command with word `w`: `x1`, `x2`, `x4` hold the operands. -/
def ready (x : Xlen) (e : NarrowExt) (w : Nat) (a b c : Word) : State :=
  (State.launch ⟨x, e, 5, 6⟩ []
    ((((Vector.replicate 32 0).set 1 a).set 2 b).set 4 c)).withFetchWord 32 w

/-- The value of `x3` after one step. -/
def x3After (s : State) : Option Word :=
  match step s with
  | .next t => some (t.readReg 3)
  | _ => none

/-- `95_test_vectors.md` 1.2 T1. -/
theorem test_exec_grev :
    x3After (ready .x64 .sign 0x00823000 0x0123456789ABCDEF 13 0) = some 0x3120B9A87564FDEC := by decide +kernel

/-- `95_test_vectors.md` 2.11. -/
theorem test_exec_grevw :
    x3After (ready .x64 .sign 0x00823020 0x0000000000000001 0x1F 0) = some 0xFFFFFFFF80000000 := by decide +kernel

/-- `40_bitpermute.md` R54. -/
theorem test_exec_gorc :
    x3After (ready .x64 .sign 0x00823001 0x8001 3 0) = some 0xF00F := by decide +kernel

/-- `95_test_vectors.md` P6. -/
theorem test_exec_gorcw :
    x3After (ready .x64 .zero 0x00823021 0x0123456701000400 7 0) = some 0x00000000FF00FF00 := by decide +kernel

/-- `41_carryless_mul.md` section 6. -/
theorem test_exec_clmul :
    x3After (ready .x64 .sign 0x00823002 0x0123456789ABCDEF 0xFEDCBA9876543210 0) = some 0x40A0789828C810F0 := by decide +kernel

/-- `41_carryless_mul.md` section 6. -/
theorem test_exec_clmulh :
    x3After (ready .x64 .sign 0x00823003 0x0123456789ABCDEF 0xFEDCBA9876543210 0) = some 0x00E038D8688850B0 := by decide +kernel

/-- `41_carryless_mul.md` section 6. -/
theorem test_exec_clmulr :
    x3After (ready .x32 .sign 0x00823004 0x12345678 0x9ABCDEF0 0) = some 0x110C1D28 := by decide +kernel

/-- `95_test_vectors.md` 2.3. -/
theorem test_exec_fsl :
    x3After (ready .x64 .sign 0x20823005 0x8000000000000001 65 0x4000000000000002) = some 0x8000000000000005 := by decide +kernel

/-- `95_test_vectors.md` 2.11. -/
theorem test_exec_fslw :
    x3After (ready .x64 .zero 0x20823025 0xAAAAAAAA12345678 0x28 0xBBBBBBBB9ABCDEF0) = some 0x00000000BCDEF012 := by decide +kernel

/-- `95_test_vectors.md` 2.3. -/
theorem test_exec_fsr :
    x3After (ready .x64 .sign 0x20823006 0x8000000000000001 65 0x4000000000000002) = some 0xA000000000000001 := by decide +kernel

/-- `95_test_vectors.md` 2.11. -/
theorem test_exec_fsrw :
    x3After (ready .x64 .sign 0x20823026 0x0000000012345678 1 0xFFFFFFFF00000001) = some 0xFFFFFFFF891A2B3C := by decide +kernel

/-- `43_shuffle.md` section 6. -/
theorem test_exec_shfl :
    x3After (ready .x64 .sign 0x00823007 0x0123456789ABCDEF 24 0) = some 0x018923AB45CD67EF := by decide +kernel

/-- `95_test_vectors.md` 2.11. -/
theorem test_exec_shflw :
    x3After (ready .x64 .sign 0x00823027 0x00000000FFFF0000 0xF 0) = some 0xFFFFFFFFAAAAAAAA := by decide +kernel

/-- `43_shuffle.md` section 6. -/
theorem test_exec_unshfl :
    x3After (ready .x64 .sign 0x00823008 0x0123456789ABCDEF 24 0) = some 0x014589CD2367ABEF := by decide +kernel

/-- `95_test_vectors.md` 2.11. -/
theorem test_exec_unshflw :
    x3After (ready .x64 .zero 0x00823028 0x00000000AAAAAAAA 0xF 0) = some 0x00000000FFFF0000 := by decide +kernel

/-- `95_test_vectors.md` 2.5. -/
theorem test_exec_xperm_n :
    x3After (ready .x32 .sign 0x00823009 0x12345678 0x70000008 0) = some 0x18888880 := by decide +kernel

/-- `44_crossbar.md` R92. -/
theorem test_exec_xperm_b :
    x3After (ready .x64 .sign 0x0082300A 0x0123456789ABCDEF 0x0708FF0000000001 0) = some 0x010000EFEFEFEFCD := by decide +kernel

/-- `44_crossbar.md` R93. -/
theorem test_exec_xperm_h :
    x3After (ready .x64 .sign 0x0082300B 0x0123456789ABCDEF 0x0003000200040000 0) = some 0x012345670000CDEF := by decide +kernel

/-- `44_crossbar.md` R94. -/
theorem test_exec_xperm_w :
    x3After (ready .x64 .sign 0x0082300C 0x0123456789ABCDEF 0x0000000100000002 0) = some 0x0123456700000000 := by decide +kernel

/-- `45_fieldplace.md` section 4, tag 2. -/
theorem test_exec_bfp :
    x3After (ready .x64 .sign 0x0082300D 0 0x810C0FFF00000009 0) = some 0x9000 := by decide +kernel

/-- `95_test_vectors.md` 2.11. -/
theorem test_exec_bfpw :
    x3After (ready .x64 .sign 0x0082302D 0xFFFFFFFF00000000 0x8000FFFF003F0001 0) = some 0xFFFFFFFF80000000 := by decide +kernel

/-- `46_compress.md` section 5. -/
theorem test_exec_bcompress :
    x3After (ready .x64 .sign 0x0082300E 0x0123456789ABCDEF 0xFF00FF00FF00FF00 0) = some 0x00000000014589CD := by decide +kernel

/-- `46_compress.md` section 5. -/
theorem test_exec_bdecompress :
    x3After (ready .x64 .sign 0x0082300F 0x0123456789ABCDEF 0xFF00FF00FF00FF00 0) = some 0x8900AB00CD00EF00 := by decide +kernel

/-- `47_crc.md` section 5. -/
theorem test_exec_crc32_b :
    x3After (ready .x64 .sign 0x00023010 0x0123456789ABCDEF 0 0) = some 0x00012345573C5424 := by decide +kernel

/-- `47_crc.md` section 5. -/
theorem test_exec_crc32_h :
    x3After (ready .x64 .sign 0x00023011 0x0123456789ABCDEF 0 0) = some 0x000001237954D885 := by decide +kernel

/-- `47_crc.md` R123. -/
theorem test_exec_crc32_w :
    x3After (ready .x32 .sign 0x00023012 0xFFFFFFFF 0 0) = some 0xDEBB20E3 := by decide +kernel

/-- `47_crc.md` section 5. -/
theorem test_exec_crc32_d :
    x3After (ready .x64 .sign 0x00023013 0x0123456789ABCDEF 0 0) = some 0x21193D2E := by decide +kernel

/-- `47_crc.md` section 5. -/
theorem test_exec_crc32c_b :
    x3After (ready .x64 .sign 0x00023014 0x0123456789ABCDEF 0 0) = some 0x00012345DAAA3FF3 := by decide +kernel

/-- `47_crc.md` section 5. -/
theorem test_exec_crc32c_h :
    x3After (ready .x64 .sign 0x00023015 0x0123456789ABCDEF 0 0) = some 0x00000123A5E436BE := by decide +kernel

/-- `47_crc.md` R127. -/
theorem test_exec_crc32c_w :
    x3After (ready .x32 .sign 0x00023016 0xFFFFFFFF 0 0) = some 0xB798B438 := by decide +kernel

/-- `47_crc.md` section 5. -/
theorem test_exec_crc32c_d :
    x3After (ready .x64 .sign 0x00023017 0x0123456789ABCDEF 0 0) = some 0xE9986AA9 := by decide +kernel

/-- `48_bitmatrix.md` section 6. -/
theorem test_exec_bmatflip :
    x3After (ready .x64 .sign 0x00023018 0x0123456789ABCDEF 0 0) = some 0x0F3355000F3355FF := by decide +kernel

/-- `48_bitmatrix.md` R132. -/
theorem test_exec_bmatxor :
    x3After (ready .x64 .sign 0x00823019 0x0123456789ABCDEF 0xFEDCBA9876543210 0) = some 0x1098981098101098 := by decide +kernel

/-- `48_bitmatrix.md` R133. -/
theorem test_exec_bmator :
    x3After (ready .x64 .sign 0x0082301A 0x0123456789ABCDEF 0xFEDCBA9876543210 0) = some 0x10BADCFEFEFEFEFE := by decide +kernel

/-- `49_select.md` R140. -/
theorem test_exec_cmov :
    x3After (ready .x64 .sign 0x2082301B 0x1111111111111111 0x8000000000000000 0x2222222222222222) = some 0x1111111111111111 := by decide +kernel

/-! ### The sequencer -/

/-- `95_test_vectors.md` P7 and R154: a reserved word is recorded, `pc` and the registers stand. -/
theorem test_reserved_command :
    step (State.reset.withFetchWord 32 0x00823022) =
      .next { State.reset with program := [0x00823022], status := .faulted .reservedCommand 0 0x00823022 } := by rfl

/-- `95_test_vectors.md` P8: the empty program halts at once with the start state unchanged. -/
theorem test_empty_program : step State.reset = .next { State.reset with status := .halted } := by rfl

/-- `30_encoding.md` R42: a source that is also the destination is read before it is written (P1, command 1). -/
theorem test_source_is_destination :
    (match step ((State.launch ⟨.x64, .zero, 5, 6⟩ [] (((Vector.replicate 32 0).set 5 0xEFCDAB8967452301).set 3 7)
      ).withFetchWord 32 0x00CA5000) with
     | .next t => some (t.readReg 5, t.pc)
     | _ => none) = some (0xF7B3D591E6A2C480, 1) := by decide +kernel

/-- `30_encoding.md` R39: the listing of its example line. -/
theorem test_assembler_line :
    (Instr.fsl 3 1 2 4).asm = "fsl x3, x1, x2, x4".toList ∧ encode (.fsl 3 1 2 4) = 0x20823005 := by decide +kernel

/-- `30_encoding.md` R39, `95_test_vectors.md` section 2.12: two commands, an empty line and comments. -/
theorem test_assembler_text :
    assemble "fsl x3, x1, x2, x4 ; rs3f = 4\n\n  bmatflip x4,x1\n; end".toList = some [0x20823005, 0x00024018] := by
  decide +kernel

/-- `30_encoding.md` R39, R40: a missing operand, no such register, upper case, a pseudo-instruction. -/
theorem test_assembler_refuses :
    (["grev x3, x1", "grev x3, x1, x32", "GREV x3, x1, x2", "nop"].all fun t => assembleLine t.toList == none) = true := by
  decide +kernel

/-- `30_encoding.md` R36, `93_implementation_defined.md` U1: the block accepts 35 of 64 select codes at 64 bits, 22 at 32. -/
theorem test_block_select_codes :
    ((List.range 64).countP fun n => blockSelOk .x64 (BitVec.ofNat 6 n)) = 35 ∧
      ((List.range 64).countP fun n => blockSelOk .x32 (BitVec.ofNat 6 n)) = 22 ∧
      blockRes Config.reference 0x22 1 2 3 = none := by decide +kernel

/-- `30_encoding.md` R31, R35: in the table's order the encodings of the operations on register 0 are the match values. -/
theorem test_table_order :
    [Instr.grev 0 0 0, Instr.grevw 0 0 0, Instr.gorc 0 0 0, Instr.gorcw 0 0 0, Instr.clmul 0 0 0,
     Instr.clmulh 0 0 0, Instr.clmulr 0 0 0, Instr.fsl 0 0 0 0, Instr.fslw 0 0 0 0, Instr.fsr 0 0 0 0,
     Instr.fsrw 0 0 0 0, Instr.shfl 0 0 0, Instr.shflw 0 0 0, Instr.unshfl 0 0 0, Instr.unshflw 0 0 0,
     Instr.xperm_n 0 0 0, Instr.xperm_b 0 0 0, Instr.xperm_h 0 0 0, Instr.xperm_w 0 0 0, Instr.bfp 0 0 0,
     Instr.bfpw 0 0 0, Instr.bcompress 0 0 0, Instr.bdecompress 0 0 0, Instr.crc32_b 0 0, Instr.crc32_h 0 0,
     Instr.crc32_w 0 0, Instr.crc32_d 0 0, Instr.crc32c_b 0 0, Instr.crc32c_h 0 0, Instr.crc32c_w 0 0,
     Instr.crc32c_d 0 0, Instr.bmatflip 0 0, Instr.bmatxor 0 0 0, Instr.bmator 0 0 0, Instr.cmov 0 0 0 0].map encode = opcodeTable.map OpcodeRow.value := by
  decide +kernel

/-- No two rows of the opcode table overlap (`30_encoding.md` R38). -/
theorem test_table_rows_disjoint :
    opcodeTable.Pairwise fun r q => r.value &&& (r.mask &&& q.mask) ≠ q.value &&& (r.mask &&& q.mask) := by
  decide +kernel

/-! ### States and operands that meet the hypotheses of the statements

Named after the statement. The builds: `wide` has 64 bits, `thin` has 32. -/

/-- A running 64-bit state with distinct registers and a program of a completing and a reserved word. -/
def wide : State :=
  State.launch ⟨.x64, .zero, 8, 8⟩ [0x00823000, 0x00823022] (Vector.ofFn fun i => BitVec.ofNat 64 (2 ^ 63 + i.val))

/-- A running 32-bit state at the end of its program. -/
def thin : State :=
  { State.launch ⟨.x32, .sign, 5, 6⟩ [0x00823000] (Vector.ofFn fun i => BitVec.ofNat 64 (2 ^ 32 - 1 - i.val)) with pc := 1 }

theorem witness_DecodeOfEncode :
    wellFormed .x64 (.bfpw 31 0 31) = true ∧ wellFormed .x32 (.cmov 31 31 31 31) = true := by decide

theorem witness_AcceptedWordIsTheEncoding : decode .x32 0xFFFFF01B = .ok (.cmov 31 31 31 31) := by decide

theorem witness_StepRunsDecodedInstruction :
    wide.status = .running ∧ wide.program[wide.pc]? = some 0x00823000 ∧
      decode wide.cfg.xlen 0x00823000 = .ok (.grev 3 1 2) := by decide +kernel

theorem witness_ReservedWordFaultsPrecisely :
    let s := { wide with pc := 1 }
    s.status = .running ∧ s.program[s.pc]? = some 0x00823022 ∧ isReserved s.cfg.xlen 0x00823022 = true := by
  decide +kernel

/-- One state for each clause: the end of the program, a reserved word, an accepted word. -/
theorem witness_StepFollowsTheSequencerRule :
    (thin.status = .running ∧ thin.pc = thin.program.length) ∧
      (let s := { wide with pc := 1 }
       s.status = .running ∧ s.program[s.pc]? = some 0x00823022 ∧ isReserved s.cfg.xlen 0x00823022 = true) ∧
      wide.status = .running ∧ wide.program[wide.pc]? = some 0x00823000 ∧
        decode wide.cfg.xlen 0x00823000 = .ok (.grev 3 1 2) := by decide +kernel

theorem witness_EndedRunsAreStuckUntilReset :
    (haltRun thin).status ≠ .running ∧ (raiseReserved 0x00823022 wide).status ≠ .running := by decide +kernel

theorem wide_inv : wide.Inv := ⟨by decide +kernel, Nat.zero_le _⟩
theorem thin_inv : thin.Inv := ⟨by decide +kernel, Nat.le_refl _⟩

/-- The three kinds of step: a completed command, the fault and the halt. -/
theorem witness_StepKeepsInvariant :
    (wide.Inv ∧ ∃ t, step wide = .next t) ∧
      (({ wide with pc := 1 } : State).Inv ∧ ∃ t, step { wide with pc := 1 } = .next t) ∧
      thin.Inv ∧ ∃ t, step thin = .next t :=
  ⟨⟨wide_inv, _, rfl⟩, ⟨⟨wide_inv.regsFit, Nat.le_succ 1⟩, _, rfl⟩, thin_inv, _, rfl⟩

theorem witness_LaunchMeetsInvariant :
    ∀ r : Reg, (thin.regs[r]).toNat < 2 ^ Xlen.x32.bits := by decide +kernel

theorem witness_EveryRunEnds :
    (wide.status = .running ∧ wide.pc ≤ wide.program.length) ∧ thin.status = .running ∧ thin.pc ≤ thin.program.length := by
  decide +kernel

theorem witness_RunNeverWritesTheProgram : ∃ t, core.run 2 wide = .next t := ⟨_, rfl⟩

theorem witness_ResetRestartsTheProgram : State.reset.program = [] ∧ wide.program = 0x00823000 :: [0x00823022] :=
  ⟨rfl, rfl⟩

theorem witness_StepCompletesOneCommandOrEnds : (∃ t, step wide = .next t) ∧ ∃ t, step thin = .next t :=
  ⟨⟨_, rfl⟩, _, rfl⟩

theorem witness_EveryOperationCompletes :
    wellFormed wide.cfg.xlen (.bmatxor 0 31 0) = true ∧ wellFormed thin.cfg.xlen (.crc32_w 0 31) = true := by decide

theorem witness_OperationOutsideTheBuildFaults :
    wellFormed thin.cfg.xlen (.grevw 3 1 2) = false ∧ wellFormed thin.cfg.xlen (.crc32_d 3 1) = false := by decide

theorem witness_EveryRegisterHoldsWhatIsWritten :
    (0xFFFFFFFFFFFFFFFF : Word).toNat < 2 ^ wide.cfg.xlen.bits ∧ (0xFFFFFFFF : Word).toNat < 2 ^ thin.cfg.xlen.bits ∧
      (31 : Reg) ≠ 0 := by decide

/-- Two states that agree on the sources of `fsl x0, x1, x2, x3` and differ in `x0`, `x4` and `pc`. -/
theorem witness_ResultDependsOnSourcesOnly :
    let s := { (wide.writeReg 0 7).writeReg 4 9 with pc := 1 }
    wellFormed wide.cfg.xlen (.fsl 0 1 2 3) = true ∧ s.cfg = wide.cfg ∧ s ≠ wide ∧
      ∀ r ∈ (Instr.fsl 0 1 2 3).sources, s.readReg r = wide.readReg r := by decide +kernel

/-- Two states whose source registers differ only above bit 31. -/
theorem witness_NarrowResultIgnoresUpperHalves :
    let s := wide.writeReg 1 0x7FFFFFFF00000001
    (Instr.grevw 3 1 2).isNarrow = true ∧ wide.cfg.xlen = .x64 ∧ s.cfg = wide.cfg ∧ s.readReg 1 ≠ wide.readReg 1 ∧
      ∀ r ∈ (Instr.grevw 3 1 2).sources, (s.readReg r).setWidth 32 = (wide.readReg r).setWidth 32 := by decide +kernel

/-- A 64-bit and a 32-bit state whose registers agree in the low halves. -/
theorem witness_NarrowFormIsThe32BitFunction :
    let s := { wide with cfg := { thin.cfg with bfpLenLsb32 := 8 } }
    wide.cfg.xlen = .x64 ∧ s.cfg.xlen = .x32 ∧ s.cfg.bfpLenLsb32 = wide.cfg.bfpLenLsb32 ∧
      ∀ r ∈ [(1 : Reg), 2, 31], (s.readReg r).setWidth 32 = (wide.readReg r).setWidth 32 := by decide +kernel

theorem witness_SequencerWritesTheBlocksResult :
    wellFormed wide.cfg.xlen (.cmov 0 31 0 31) = true ∧ wellFormed thin.cfg.xlen (.crc32c_w 0 31) = true := by decide

theorem witness_GrevwByBits : wide.cfg.xlen = .x64 := rfl
theorem witness_GorcwByBits : wide.cfg.xlen = .x64 := rfl
theorem witness_NarrowFunnelShiftByBits : wide.cfg.xlen = .x64 := rfl
theorem witness_NarrowShuffleByBits : wide.cfg.xlen = .x64 := rfl
theorem witness_WordCrossbarByBits : wide.cfg.xlen = .x64 := rfl
theorem witness_BfpwByBits : wide.cfg.xlen = .x64 := rfl
theorem witness_Crc64IsPolynomialRemainder : wide.cfg.xlen = .x64 := rfl
theorem witness_BmatflipTransposes : wide.cfg.xlen = .x64 := rfl
theorem witness_BmatxorMultipliesOverGF2 : wide.cfg.xlen = .x64 := rfl
theorem witness_BmatorMultipliesBooleans : wide.cfg.xlen = .x64 := rfl

/-- The clauses of the funnel shift at the amounts 0, `W - 1`, `W` and `2W - 1` (`42_funnel_shift.md` section 6). -/
theorem witness_FunnelShiftLaws :
    let a : BitVec 64 := 0x0123456789ABCDEF
    let c : BitVec 64 := 0xFEDCBA9876543210
    fsl 64 a 0 c = a ∧ fsl 64 a 63 c = 0xFF6E5D4C3B2A1908 ∧ fsl 64 a 64 c = c ∧ fsl 64 a 127 c = 0x0091A2B3C4D5E6F7 ∧
      fsr 64 a 63 c = 0xFDB97530ECA86420 := by decide +kernel

/-- The last pair of positions of the interleaving (`43_shuffle.md` R82). -/
theorem witness_FullShuffleInterleavesHalves :
    31 < 64 / 2 ∧ (shfl 64 0x8000000000000000 31).getLsbD 63 = true ∧ (shfl 64 0x0000000080000000 31).getLsbD 62 = true := by
  decide +kernel

/-- Identity indices at each group size, and an index just out of range (`44_crossbar.md` R90 to R94). -/
theorem witness_CrossbarLaws :
    (∀ i < 16, (BitVec.extractLsb' (4 * i) 4 (0xFEDCBA9876543210 : BitVec 64)).toNat = i) ∧
      (∀ i < 2, (BitVec.extractLsb' (32 * i) 32 (0x0000000100000000 : BitVec 64)).toNat = i) ∧
      xperm 4 64 0x0123456789ABCDEF 0x0000000000000004 = 0xCDEFCDEFCDEF0000 := by decide +kernel

/-- A field cut off at the top, and its first and last bit (`45_fieldplace.md` section 4: `off = 63`, `len = 1`). -/
theorem witness_FieldPlaceLaws :
    let b : BitVec 64 := 0x0000007F00000001
    fieldOffset 64 b.toNat = 63 ∧ fieldLength 6 64 b.toNat = 1 ∧ 63 < min (63 + 1) 64 ∧
      (bfp 6 64 0x1111111111111111 b ^^^ 0x1111111111111111).getLsbD 63 = true := by decide +kernel

/-- The bits that must be zero at `W = 64`: from 56 on after 8 iterations, from 32 on after 32 (`47_crc.md` R120 (c)). -/
theorem witness_CrcLaws : max 32 (64 - 8) ≤ 56 ∧ max 32 (64 - 32) ≤ 32 ∧ max 32 (32 - 8) ≤ 32 := by decide

/-! Laws whose one hypothesis is the operand width: an operand at each of the two widths, with the law's left side. -/

theorem witness_BitPermuteLaws :
    (32 = 32 ∨ 32 = 64) ∧ (64 = 32 ∨ 64 = 64) ∧ grev 32 (grev 32 0x12345678 31) 31 = 0x12345678 := by decide +kernel

theorem witness_ClmulHalvesMakeTheProduct :
    (32 = 32 ∨ 32 = 64) ∧ (64 = 32 ∨ 64 = 64) ∧ clmul 64 3 3 = 5 ∧ clmulh 32 0x80000000 0x80000000 = 0x40000000 := by
  decide +kernel

theorem witness_ClmulrEquivalences : (32 = 32 ∨ 32 = 64) ∧ (64 = 32 ∨ 64 = 64) := by decide

theorem witness_ShuffleLaws :
    (32 = 32 ∨ 32 = 64) ∧ (64 = 32 ∨ 64 = 64) ∧ shfl 64 0x00000000FFFFFFFF 31 = 0x5555555555555555 := by decide +kernel

theorem witness_CompressLaws :
    (32 = 32 ∨ 32 = 64) ∧ (64 = 32 ∨ 64 = 64) ∧ bdecompress 64 0b11 0b1010 = 0b1010 := by decide +kernel

end Sys2Proof.Tests
end

section
/-! The narrow forms against the native functions of a 32-bit build (`00_scope.md` R7). -/

namespace Sys2Proof.Machine

/-- A narrow operation has exactly the effect `k` in a build that has it, so it completes with the value it writes. -/
theorem completesWith_of_exec_require64 {i : Instr} {s : State} {v : Word} {res : Word → Prop}
    (hx : s.cfg.xlen = .x64) (h : exec i s = require64 i s (completeCommand i.rd v s)) (hv : res v) :
    CompletesWith i s res :=
  completesWith_of_exec (h.trans (require64_x64 hx)) (by rwa [hx, toXlen_x64])

/-- The native field placement of a 32-bit build has its length field where the narrow one has it. -/
theorem Config.bfpLenLsbNative_of_x32 {c : Config} (h : c.xlen = .x32) : c.bfpLenLsbNative = c.bfpLenLsb32 := by
  simp [Config.bfpLenLsbNative, h]

/-- `n` on `s` and `m` on `s32` both complete, and the result of `n` is that of `m` widened by the `NARROW_EXT` of `s`. -/
def WidensResultOf (n : Instr) (s : State) (m : Instr) (s32 : State) : Prop :=
  ∃ v r, CompletesWith n s (· = v) ∧ CompletesWith m s32 (· = r) ∧ NarrowBits s.cfg.narrowExt v r.getLsbD

section pair

variable {n m : Instr} {s s32 : State} (hx : s.cfg.xlen = .x64) (hx32 : s32.cfg.xlen = .x32)

include hx hx32

/-- Two operations that form the same 32-bit result, one widening it as narrow, one writing it as native. -/
theorem widensResultOf_of_exec {r : BitVec 32}
    (hn : exec n s = require64 n s (completeCommand n.rd (extendNarrow s.cfg.narrowExt r) s))
    (hm : exec m s32 = completeCommand m.rd (extendNative r) s32) : WidensResultOf n s m s32 := by
  have hfit : toXlen s32.cfg.xlen (extendNative r) = extendNative r := by
    rw [hx32]; exact toXlen_extendNative .x32 r
  have hbits : ∀ i < 32, r.getLsbD i = (extendNative r).getLsbD i :=
    fun i _ => (extendNative_getLsbD .x32 r i).symm
  exact ⟨_, _, completesWith_of_exec_require64 hx hn rfl, completesWith_of_exec hm hfit,
    narrowBits_extendNarrow _ r _ hbits⟩

variable {va vb vc va' vb' vc' : Word} (ha : va'.setWidth 32 = va.setWidth 32) (hb : vb'.setWidth 32 = vb.setWidth 32)

include ha hb

theorem widensResultOf_of_narrow2 (f : (W : Nat) → BitVec W → BitVec W → BitVec W)
    (hn : exec n s = require64 n s (completeCommand n.rd (narrow2 s.cfg.narrowExt f va vb) s))
    (hm : exec m s32 = completeCommand m.rd (native2 s32.cfg.xlen f va' vb') s32) : WidensResultOf n s m s32 := by
  rw [hx32, native2_x32, ha, hb] at hm
  exact widensResultOf_of_exec hx hx32 hn hm

theorem widensResultOf_of_narrow3 (hc : vc'.setWidth 32 = vc.setWidth 32)
    (f : (W : Nat) → BitVec W → BitVec W → BitVec W → BitVec W)
    (hn : exec n s = require64 n s (completeCommand n.rd (narrow3 s.cfg.narrowExt f va vb vc) s))
    (hm : exec m s32 = completeCommand m.rd (native3 s32.cfg.xlen f va' vb' vc') s32) :
    WidensResultOf n s m s32 := by
  rw [hx32, native3_x32, ha, hb, hc] at hm
  exact widensResultOf_of_exec hx hx32 hn hm

end pair

/-- Settles O22: in each pair both operations apply one function at `W = 32` to the same low halves; only `bfp` also reads
the build, through the position of its length field. -/
theorem narrowFormIsThe32BitFunction : Obligations.NarrowFormIsThe32BitFunction := by
  intro rd a b c s s32 hx hx32 hlsb hlow
  have ha := hlow a (by simp)
  have hb := hlow b (by simp)
  have hc := hlow c (by simp)
  have hbfp : exec (.bfp rd a b) s32 =
      completeCommand rd (native2 s32.cfg.xlen (bfp s.cfg.bfpLenLsb32) (s32.readReg a) (s32.readReg b)) s32 := by
    rw [← hlsb, ← Config.bfpLenLsbNative_of_x32 hx32]; rfl
  simp only [List.forall_mem_cons]
  exact ⟨widensResultOf_of_narrow2 hx hx32 ha hb grev rfl rfl,
    widensResultOf_of_narrow2 hx hx32 ha hb gorc rfl rfl,
    widensResultOf_of_narrow3 hx hx32 ha hb hc fsl rfl rfl,
    widensResultOf_of_narrow3 hx hx32 ha hb hc fsr rfl rfl,
    widensResultOf_of_narrow2 hx hx32 ha hb shfl rfl rfl,
    widensResultOf_of_narrow2 hx hx32 ha hb unshfl rfl rfl,
    widensResultOf_of_narrow2 hx hx32 ha hb (bfp s.cfg.bfpLenLsb32) rfl hbfp,
    List.forall_mem_nil _⟩

end Sys2Proof.Machine
end

section
/-! An accepted word is an operation of the build (`30_encoding.md` R33, R38). -/

namespace Sys2Proof

/-! ### Which operations a build has -/

/-- A 64-bit build has every operation. -/
@[simp] theorem wellFormed_x64 (i : Instr) : wellFormed .x64 i = true := by
  simp [wellFormed, Instr.narrowFits, Instr.widthFits]

/-- A 32-bit build has the operations that neither are narrow nor need 64 bits. -/
theorem wellFormed_x32_iff (i : Instr) : wellFormed .x32 i = true ↔ i.isNarrow = false ∧ i.needs64 = false := by
  simp [wellFormed, Instr.narrowFits, Instr.widthFits]

/-! ### What acceptance says -/

theorem decode_eq_ok_iff {x : Xlen} {w : CommandWord} {i : Instr} :
    decode x w = .ok i ↔ reservedReason x w = none ∧ selectInstr w = some i := by
  unfold decode
  cases reservedReason x w with
  | some r => simp
  | none => cases selectInstr w <;> simp

/-- The two tests of R38 that depend on the build, passed in a 32-bit one. -/
theorem reservedReason_x32_eq_none {w : CommandWord} (h : reservedReason .x32 w = none) :
    narrowField w = false ∧ needs64Bits (funcField w) = false := by
  unfold reservedReason at h
  split_ifs at h with _ _ _ hn h64
  exact ⟨by simpa using hn, by simpa using h64⟩

/-- The native operations are not narrow, and the code tells whether they need 64 bits (`30_encoding.md` R31). -/
theorem width_of_nativeInstr {func : Nat} {rd rs1 rs2 rs3 : Reg} {i : Instr}
    (h : nativeInstr func rd rs1 rs2 rs3 = some i) : i.isNarrow = false ∧ i.needs64 = needs64Bits func := by
  unfold nativeInstr at h
  split at h <;> cases h <;> exact ⟨rfl, rfl⟩

theorem wellFormed_of_decode {x : Xlen} {w : CommandWord} {i : Instr} (h : decode x w = .ok i) :
    wellFormed x i = true := by
  cases x with
  | x64 => exact wellFormed_x64 i
  | x32 =>
    obtain ⟨hres, hsel⟩ := decode_eq_ok_iff.mp h
    obtain ⟨hn, h64⟩ := reservedReason_x32_eq_none hres
    rw [selectInstr, hn] at hsel
    obtain ⟨hnarrow, hneeds⟩ := width_of_nativeInstr hsel
    exact (wellFormed_x32_iff i).mpr ⟨hnarrow, hneeds.trans h64⟩

end Sys2Proof
end

section
/-! What a step leaves behind: a completed command, the fault or the halt (`30_encoding.md` R42), and that each of the
three keeps the invariant (`10_state.md` R17 to R19). -/

namespace Sys2Proof.Machine

/-! ### What executing an operation does -/

/-- The shape of every arm of `exec`: the operations that a 32-bit build lacks complete behind the guard `require64`, the
others complete outright. -/
theorem exec_shape (i : Instr) (s : State) :
    ∃ v, exec i s =
      if wellFormed .x32 i then completeCommand i.rd v s else require64 i s (completeCommand i.rd v s) := by
  cases i <;> exact ⟨_, rfl⟩

/-- An operation of the build completes. -/
theorem exec_of_wellFormed {i : Instr} {s : State} (h : wellFormed s.cfg.xlen i = true) :
    ∃ v, exec i s = completeCommand i.rd v s := by
  obtain ⟨v, hv⟩ := exec_shape i s
  refine ⟨v, ?_⟩
  cases hx : s.cfg.xlen with
  | x32 => rw [hv, if_pos (hx ▸ h)]
  | x64 => rw [hv, require64_x64 hx, ite_self]

/-! ### The states a step can reach -/

/-- `step_cases` with the executed command resolved: it writes some value to its destination and advances `pc`. -/
theorem step_outcome {s t : State} (h : step s = .next t) :
    s.status = .running ∧
      ((∃ w i v, s.program[s.pc]? = some w ∧ decode s.cfg.xlen w = .ok i ∧ t = (s.writeReg i.rd v).advancePc) ∨
        (∃ w, s.program[s.pc]? = some w ∧ isReserved s.cfg.xlen w = true ∧ t = raiseReserved w s) ∨
        (s.pc = s.program.length ∧ t = haltRun s)) := by
  obtain ⟨hrun, ⟨w, i, hw, hd, he⟩ | hended⟩ := step_cases h
  · obtain ⟨v, hv⟩ := exec_of_wellFormed (wellFormed_of_decode hd)
    exact ⟨hrun, .inl ⟨w, i, v, hw, hd, (Host.Outcome.next.inj (hv.symm.trans he)).symm⟩⟩
  · exact ⟨hrun, .inr hended⟩

theorem onlyWrites_completed (rd : Reg) (v : Word) (s : State) :
    State.OnlyWrites rd s (s.writeReg rd v).advancePc := by
  obtain ⟨t, ht, hw, -⟩ := completeCommand_spec rd v s
  exact Host.Outcome.next.inj ht ▸ hw

/-! ### Each of them meets the invariant -/

/-- A running state whose `pc` is at a word of the program stays inside the program when it advances. -/
theorem inv_completed {s : State} {w : CommandWord} (hregs : s.RegsFit) (hrun : s.status = .running)
    (hw : s.program[s.pc]? = some w) (rd : Reg) (v : Word) : (s.writeReg rd v).advancePc.Inv where
  regsFit := writeReg_keeps_regsFit hregs rd v
  statusFits := by
    obtain ⟨hpc, -⟩ := List.getElem?_eq_some_iff.mp hw
    simpa [State.StatusFits, hrun] using hpc

theorem inv_raiseReserved {s : State} {w : CommandWord} (hregs : s.RegsFit) (hw : s.program[s.pc]? = some w)
    (hres : isReserved s.cfg.xlen w = true) : (raiseReserved w s).Inv where
  regsFit := hregs
  statusFits := ⟨rfl, hw, hres⟩

theorem inv_haltRun {s : State} (hregs : s.RegsFit) (hend : s.pc = s.program.length) : (haltRun s).Inv where
  regsFit := hregs
  statusFits := hend

/-- Settles O12: the fault record is true because an accepted word never raises: it is an operation of the build. -/
theorem stepKeepsInvariant : Obligations.StepKeepsInvariant := by
  intro s t hinv h
  obtain ⟨hrun, ⟨w, i, v, hw, -, rfl⟩ | ⟨w, hw, hres, rfl⟩ | ⟨hend, rfl⟩⟩ := step_outcome h
  · exact inv_completed hinv.regsFit hrun hw i.rd v
  · exact inv_raiseReserved hinv.regsFit hw hres
  · exact inv_haltRun hinv.regsFit hend

/-- Settles O16: a completed command keeps the status running; the fault and the halt change the status alone. -/
theorem stepCompletesOneCommandOrEnds : Obligations.StepCompletesOneCommandOrEnds := by
  intro s t h
  obtain ⟨hrun, ⟨w, i, v, -, -, rfl⟩ | ⟨w, -, -, rfl⟩ | ⟨-, rfl⟩⟩ := step_outcome h
  · exact .inl ⟨hrun, i.rd, onlyWrites_completed i.rd v s⟩
  · exact .inr ⟨by simp, rfl, fun _ => rfl, rfl, rfl⟩
  · exact .inr ⟨by simp, rfl, fun _ => rfl, rfl, rfl⟩

end Sys2Proof.Machine
end

section
/-! What every step keeps, a run of any length keeps; the program is such a thing (`20_memory.md` R26). -/

namespace Sys2Proof.Machine

/-! ### Runs of the machine -/

@[simp] theorem core_step (s : State) : core.step s = step s := rfl

/-- A run that answers a state after `k + 1` steps took a first step and went on from there. -/
theorem run_succ_eq_next_iff {k : Nat} {s t : State} :
    core.run (k + 1) s = .next t ↔ ∃ u, step s = .next u ∧ core.run k u = .next t := by
  cases h : step s <;> simp [Host.Core.run, h]

/-- The induction over a run: a property that every step keeps holds after any number of steps. -/
theorem run_keeps {P : State → Prop} (hstep : ∀ s t : State, step s = .next t → P s → P t) (k : Nat) {s t : State}
    (h : core.run k s = .next t) (hs : P s) : P t := by
  induction k generalizing s with
  | zero => exact Host.Outcome.next.inj h ▸ hs
  | succ k ih =>
    obtain ⟨u, hu, hrun⟩ := run_succ_eq_next_iff.mp h
    exact ih hrun (hstep s u hu hs)

/-! ### The program of a run -/

/-- A completed command writes a register and `pc`, the fault and the halt the status: none of them the program. -/
theorem step_program {s t : State} (h : step s = .next t) : t.program = s.program := by
  obtain ⟨-, rd, hw⟩ | ⟨-, -, -, hprogram, -⟩ := stepCompletesOneCommandOrEnds s t h
  · exact hw.program
  · exact hprogram

/-- Settles O15: having the program of the start state is a property that every step keeps. -/
theorem runNeverWritesTheProgram : Obligations.RunNeverWritesTheProgram := by
  intro k s t h
  exact run_keeps (P := fun u => u.program = s.program) (fun _ _ hu hprogram => (step_program hu).trans hprogram) k h rfl

end Sys2Proof.Machine
end

section
/-! Every operation by the parts of its command word: narrow flag, function code and register fields, and what the function
code says about the operation (`30_encoding.md` R31 to R35). -/

namespace Sys2Proof

open Claims

/-! ### The parts of an operation -/

/-- The function code as the five bits of the command word. -/
def Instr.funcBits (i : Instr) : BitVec 5 := BitVec.ofNat 5 (functionCode i)

/-- What stands in source field number `k`: the source register, or 0 where the operation has none (R35). -/
def Instr.sourceField (i : Instr) (k : Nat) : Reg := i.sources[k]?.getD 0

theorem encode_eq_commandWord (i : Instr) :
    encode i = commandWord (i.sourceField 2) (i.sourceField 1) (i.sourceField 0) i.rd i.isNarrow i.funcBits := by
  cases i <;> rfl

theorem functionCode_le (i : Instr) : functionCode i ≤ 0x1B := by
  cases i <;> simp [functionCode]

@[simp] theorem Instr.funcBits_toNat (i : Instr) : i.funcBits.toNat = functionCode i := by
  have := functionCode_le i
  exact Nat.mod_eq_of_lt (by omega)

/-! ### What the function code says -/

theorem operandCount_functionCode (i : Instr) : operandCount (functionCode i) = i.sources.length := by
  cases i <;> rfl

theorem needs64Bits_functionCode (i : Instr) : needs64Bits (functionCode i) = i.needs64 := by
  cases i <;> rfl

theorem hasNarrowForm_of_isNarrow {i : Instr} : i.isNarrow = true → hasNarrowForm (functionCode i) = true := by
  cases i <;> simp [Instr.isNarrow, functionCode, hasNarrowForm]

/-- A build has an operation when it is a 64-bit build or the operation is neither narrow nor in need of 64 bits (R33). -/
theorem wellFormed_iff {x : Xlen} {i : Instr} :
    wellFormed x i = true ↔ x = .x64 ∨ (i.isNarrow = false ∧ i.needs64 = false) := by
  cases x <;> simp [wellFormed_x32_iff]

/-! ### Selecting an operation by narrow flag and function code -/

/-- The operation that a narrow flag and a function code select on the given register fields, as `selectInstr` does for the
fields of a word. -/
def selectFunction (n : Bool) (func : Nat) (rd rs1 rs2 rs3 : Reg) : Option Instr :=
  if n then narrowInstr func rd rs1 rs2 rs3 else nativeInstr func rd rs1 rs2 rs3

theorem selectInstr_eq_selectFunction (w : CommandWord) :
    selectInstr w =
      selectFunction (narrowField w) (funcField w) (regField 12 w) (regField 17 w) (regField 22 w) (regField 27 w) := rfl

theorem selectFunction_self (i : Instr) :
    selectFunction i.isNarrow (functionCode i) i.rd (i.sourceField 0) (i.sourceField 1) (i.sourceField 2) = some i := by
  cases i <;> rfl

/-- The register fields do not matter for whether an operation is selected. -/
theorem exists_selectFunction (i : Instr) (rd rs1 rs2 rs3 : Reg) :
    ∃ j, selectFunction i.isNarrow (functionCode i) rd rs1 rs2 rs3 = some j := by
  cases i <;> exact ⟨_, rfl⟩

/-- The selected operation has the flag, the code and the registers it was selected by, as many as its function reads. -/
theorem parts_of_selectFunction {n : Bool} {func : Nat} {rd rs1 rs2 rs3 : Reg} {i : Instr}
    (h : selectFunction n func rd rs1 rs2 rs3 = some i) :
    i.isNarrow = n ∧ functionCode i = func ∧ i.rd = rd ∧ i.sources = [rs1, rs2, rs3].take (operandCount func) := by
  cases n with
  | false =>
    replace h : nativeInstr func rd rs1 rs2 rs3 = some i := h
    unfold nativeInstr at h
    split at h <;> cases h <;> exact ⟨rfl, rfl, rfl, rfl⟩
  | true =>
    replace h : narrowInstr func rd rs1 rs2 rs3 = some i := h
    unfold narrowInstr at h
    split at h <;> cases h <;> exact ⟨rfl, rfl, rfl, rfl⟩

/-- The narrow flag and function code name a function, and the function has the form (R31, R32). -/
def IsOperationCode (n : Bool) (func : Nat) : Prop := func ≤ 0x1B ∧ (n = true → hasNarrowForm func = true)

theorem isOperationCode_of_instr (i : Instr) : IsOperationCode i.isNarrow (functionCode i) :=
  ⟨functionCode_le i, hasNarrowForm_of_isNarrow⟩

/-- Every such code selects an operation. -/
theorem selectFunction_isSome : ∀ func < 0x1C, ∀ n : Bool, (n = true → hasNarrowForm func = true) →
    (selectFunction n func 0 0 0 0).isSome = true := by decide

theorem isOperationCode_iff {n : Bool} {func : Nat} :
    IsOperationCode n func ↔ ∃ i : Instr, i.isNarrow = n ∧ functionCode i = func := by
  refine ⟨fun ⟨hle, hform⟩ => ?_, ?_⟩
  · obtain ⟨i, hi⟩ := Option.isSome_iff_exists.mp (selectFunction_isSome func (Nat.lt_succ_of_le hle) n hform)
    obtain ⟨hn, hcode, -, -⟩ := parts_of_selectFunction hi
    exact ⟨i, hn, hcode⟩
  · rintro ⟨i, rfl, rfl⟩; exact isOperationCode_of_instr i

end Sys2Proof
end

section
/-! The command word of an operation: its numeric value, and that the decoder reads it back (`30_encoding.md` R34, R38). -/

namespace Sys2Proof

open Claims

/-! ### The value of a command word -/

theorem toNat_append_eq_add {m k : Nat} (a : BitVec m) (b : BitVec k) : (a ++ b).toNat = a.toNat * 2 ^ k + b.toNat := by
  rw [BitVec.toNat_append, ← Nat.shiftLeft_add_eq_or_of_lt b.isLt, Nat.shiftLeft_eq]

theorem commandWord_toNat (rs3 rs2 rs1 rd : Reg) (n : Bool) (f : BitVec 5) :
    (commandWord rs3 rs2 rs1 rd n f).toNat =
      rs3.val * 2 ^ 27 + rs2.val * 2 ^ 22 + rs1.val * 2 ^ 17 + rd.val * 2 ^ 12 + (if n then 2 ^ 5 else 0) + f.toNat := by
  simp only [commandWord, toNat_append_eq_add, BitVec.toNat_ofFin]
  cases n <;> simp <;> omega

theorem sourceField_val (i : Instr) (k : Nat) : (i.sourceField k).val = (i.sources[k]?).elim 0 Fin.val := by
  unfold Instr.sourceField
  cases i.sources[k]? <;> rfl

/-- Settles O4: the command word is put together from the parts of the operation, each in its field. -/
theorem commandWordValue : Obligations.CommandWordValue := by
  intro i
  rw [encode_eq_commandWord, commandWord_toNat, Instr.funcBits_toNat]
  simp only [sourceField_val]

/-! ### Decoding it -/

/-- A word with the flag and code of an operation of the build, and zero in the fields its function does not read, passes
every test of R38. -/
theorem decode_commandWord_of_wellFormed {x : Xlen} {i j : Instr} {rd rs1 rs2 rs3 : Reg} (hwf : wellFormed x i = true)
    (h3 : i.sources.length ≤ 2 → rs3 = 0) (h2 : i.sources.length = 1 → rs2 = 0)
    (hsel : selectFunction i.isNarrow (functionCode i) rd rs1 rs2 rs3 = some j) :
    decode x (commandWord rs3 rs2 rs1 rd i.isNarrow i.funcBits) = .ok j := by
  have hcode : ¬ functionCode i > 0x1B := Nat.not_lt.mpr (functionCode_le i)
  have hform : ¬ (i.isNarrow = true ∧ ¬ hasNarrowForm (functionCode i) = true) :=
    fun h => h.2 (hasNarrowForm_of_isNarrow h.1)
  have hbuild : x = .x32 → i.isNarrow = false ∧ i.needs64 = false := by
    rintro rfl; exact (wellFormed_x32_iff i).mp hwf
  have hnarrow : ¬ (i.isNarrow = true ∧ x = .x32) := fun ⟨hn, hx⟩ =>
    Bool.false_ne_true ((hbuild hx).1.symm.trans hn)
  have hneeds : ¬ (x = .x32 ∧ i.needs64 = true) := fun ⟨hx, hn⟩ =>
    Bool.false_ne_true ((hbuild hx).2.symm.trans hn)
  have hrs3 : ¬ (i.sources.length ≤ 2 ∧ rs3 ≠ 0) := fun h => h.2 (h3 h.1)
  have hrs2 : ¬ (i.sources.length = 1 ∧ rs2 ≠ 0) := fun h => h.2 (h2 h.1)
  rw [decode_commandWord, Instr.funcBits_toNat, operandCount_functionCode, needs64Bits_functionCode, if_neg hcode,
    if_neg hform, if_neg hnarrow, if_neg hneeds, if_neg hrs3, if_neg hrs2]
  unfold selectFunction at hsel
  rw [hsel]

/-- Settles O1: the tests pass, and flag, code and register fields select the operation they were taken from. -/
theorem decodeOfEncode : Obligations.DecodeOfEncode := by
  intro x i hwf
  rw [encode_eq_commandWord]
  refine decode_commandWord_of_wellFormed hwf (fun h => ?_) (fun h => ?_) (selectFunction_self i)
  · simp [Instr.sourceField, List.getElem?_eq_none h]
  · simp [Instr.sourceField, List.getElem?_eq_none (Nat.le_of_eq h)]

end Sys2Proof
end

section
/-! The accepted words (`30_encoding.md` R35, R36, R38): each is the encoding of the operation it decodes to, and they are the
words of the opcode table. -/

namespace Sys2Proof

open Claims

/-! ### An accepted word is an encoding -/

/-- The tests of R38 that speak of fields being zero, passed. -/
theorem zero_fields_of_reservedReason {x : Xlen} {w : CommandWord} (h : reservedReason x w = none) :
    w.extractLsb' 6 6 = 0 ∧ (operandCount (funcField w) ≤ 2 → regField 27 w = 0) ∧
      (operandCount (funcField w) = 1 → regField 22 w = 0) := by
  unfold reservedReason at h
  split_ifs at h with hz _ _ _ _ h3 h2
  exact ⟨not_not.mp hz, fun hc => by_contra fun hne => h3 ⟨hc, hne⟩, fun hc => by_contra fun hne => h2 ⟨hc, hne⟩⟩

/-- An operation whose sources are the first `count` of three registers, the others being 0, has the three as its source
fields. -/
theorem sourceFields_of_sources {i : Instr} {rs1 rs2 rs3 : Reg} {count : Nat} (hcount : 1 ≤ count)
    (hs : i.sources = [rs1, rs2, rs3].take count) (h3 : count ≤ 2 → rs3 = 0) (h2 : count = 1 → rs2 = 0) :
    i.sourceField 0 = rs1 ∧ i.sourceField 1 = rs2 ∧ i.sourceField 2 = rs3 := by
  unfold Instr.sourceField
  rw [hs]
  match count, hcount with
  | 1, _ => exact ⟨rfl, (h2 rfl).symm, (h3 (by omega)).symm⟩
  | 2, _ => exact ⟨rfl, rfl, (h3 (by omega)).symm⟩
  | _ + 3, _ => exact ⟨rfl, rfl, by simp⟩

theorem one_le_operandCount (func : Nat) : 1 ≤ operandCount func := by
  unfold operandCount
  split_ifs <;> omega

theorem encode_of_decode {x : Xlen} {w : CommandWord} {i : Instr} (h : decode x w = .ok i) : encode i = w := by
  obtain ⟨hres, hsel⟩ := decode_eq_ok_iff.mp h
  obtain ⟨hz, h3, h2⟩ := zero_fields_of_reservedReason hres
  obtain ⟨hn, hcode, hrd, hs⟩ := parts_of_selectFunction ((selectInstr_eq_selectFunction w).symm.trans hsel)
  obtain ⟨e1, e2, e3⟩ := sourceFields_of_sources (one_le_operandCount _) hs h3 h2
  have hbits : i.funcBits = w.extractLsb' 0 5 :=
    BitVec.eq_of_toNat_eq ((Instr.funcBits_toNat i).trans hcode)
  rw [encode_eq_commandWord, e1, e2, e3, hrd, hn, hbits, commandWord_of_fields w hz]

/-- Settles O2: the word is put together again from the fields that select the operation. -/
theorem acceptedWordIsTheEncoding : Obligations.AcceptedWordIsTheEncoding :=
  fun _ _ _ h => ⟨encode_of_decode h, wellFormed_of_decode h⟩

/-! ### The rows of the opcode table -/

/-- The bits that a row of the opcode table fixes: all but the destination and the source fields in use (R35). -/
def fixedBits (sourceCount : Nat) : CommandWord :=
  (if sourceCount ≤ 2 then BitVec.allOnes 5 else 0#5) ++ (if sourceCount = 1 then BitVec.allOnes 5 else 0#5) ++
    0#5 ++ 0#5 ++ BitVec.allOnes 6 ++ BitVec.allOnes 1 ++ BitVec.allOnes 5

/-- The row of the opcode table for a narrow flag and a function code. -/
def codeRow (n : Bool) (func : Nat) : OpcodeRow :=
  ⟨commandWord 0 0 0 0 n (BitVec.ofNat 5 func), fixedBits (operandCount func), !n && !needs64Bits func⟩

/-- The table has a row for every code, and no other rows. -/
theorem codeRow_mem : ∀ func < 0x1C, ∀ n : Bool, (n = true → hasNarrowForm func = true) →
    codeRow n func ∈ opcodeTable := by decide

theorem exists_codeRow_eq : ∀ row ∈ opcodeTable, ∃ func < 0x1C, ∃ n : Bool, (n = true → hasNarrowForm func = true) ∧
    codeRow n func = row := by decide

/-- The rows of the opcode table are those of the operations. -/
theorem mem_opcodeTable_iff {row : OpcodeRow} :
    row ∈ opcodeTable ↔ ∃ i : Instr, codeRow i.isNarrow (functionCode i) = row := by
  constructor
  · intro h
    obtain ⟨func, hlt, n, hform, hrow⟩ := exists_codeRow_eq row h
    obtain ⟨i, rfl, rfl⟩ := isOperationCode_iff.mp ⟨Nat.le_of_lt_succ hlt, hform⟩
    exact ⟨i, hrow⟩
  · rintro ⟨i, rfl⟩
    obtain ⟨hle, hform⟩ := isOperationCode_of_instr i
    exact codeRow_mem _ (Nat.lt_succ_of_le hle) _ hform

/-- The build has an operation exactly when it has its row (R33). -/
theorem wellFormed_iff_row {x : Xlen} {i : Instr} :
    wellFormed x i = true ↔ x = .x64 ∨ (codeRow i.isNarrow (functionCode i)).at32 = true := by
  cases x <;> simp [codeRow, wellFormed_x32_iff, needs64Bits_functionCode]

/-! ### Matching a row -/

theorem append_and_append {m k : Nat} {a a' c : BitVec m} {b b' d : BitVec k} (h : a &&& a' = c) (h' : b &&& b' = d) :
    (a ++ b) &&& (a' ++ b') = c ++ d := by rw [BitVec.and_append, h, h']

theorem field_and_mask (p : Prop) [Decidable p] (r : Reg) :
    BitVec.ofFin (w := 5) r &&& (if p then BitVec.allOnes 5 else 0#5) = BitVec.ofFin (w := 5) (if p then r else 0) := by
  split_ifs
  · exact BitVec.and_allOnes
  · exact BitVec.and_zero

theorem commandWord_and_fixedBits (rs3 rs2 rs1 rd : Reg) (n : Bool) (f : BitVec 5) (count : Nat) :
    commandWord rs3 rs2 rs1 rd n f &&& fixedBits count =
      commandWord (if count ≤ 2 then rs3 else 0) (if count = 1 then rs2 else 0) 0 0 n f := by
  have hsources := append_and_append (field_and_mask (count ≤ 2) rs3) (field_and_mask (count = 1) rs2)
  have hregs := append_and_append (append_and_append hsources (BitVec.and_zero (x := BitVec.ofFin (w := 5) rs1)))
    (BitVec.and_zero (x := BitVec.ofFin (w := 5) rd))
  exact append_and_append (append_and_append (append_and_append hregs (BitVec.and_allOnes (x := 0#6)))
    (BitVec.and_allOnes (x := BitVec.ofBool n))) (BitVec.and_allOnes (x := f))

/-- The mask keeps the reserved bits 11:6, which are zero in every value. -/
theorem zeroField_of_match {w : CommandWord} {count : Nat} {n : Bool} {f : BitVec 5}
    (h : w &&& fixedBits count = commandWord 0 0 0 0 n f) : w.extractLsb' 6 6 = 0 := by
  have hmask : (fixedBits count).extractLsb' 6 6 = BitVec.allOnes 6 := by
    unfold fixedBits
    split_ifs <;> decide
  rw [← zeroField_commandWord 0 0 0 0 n f, ← h, BitVec.extractLsb'_and, hmask, BitVec.and_allOnes]

/-- The fields of a command word determine it. -/
theorem commandWord_inj {rs3 rs2 rs1 rd rs3' rs2' rs1' rd' : Reg} {n n' : Bool} {f f' : BitVec 5}
    (h : commandWord rs3 rs2 rs1 rd n f = commandWord rs3' rs2' rs1' rd' n' f') :
    rs3 = rs3' ∧ rs2 = rs2' ∧ rs1 = rs1' ∧ rd = rd' ∧ n = n' ∧ f = f' :=
  ⟨by simpa using congrArg (regField 27) h, by simpa using congrArg (regField 22) h,
    by simpa using congrArg (regField 17) h, by simpa using congrArg (regField 12) h,
    by simpa using congrArg narrowField h, BitVec.eq_of_toNat_eq (by simpa using congrArg funcField h)⟩

/-- A word that matches a row is a command word with the row's flag and code, and zero in the fields its function does not
read. -/
theorem exists_commandWord_of_match {w : CommandWord} {count : Nat} {n : Bool} {f : BitVec 5}
    (h : w &&& fixedBits count = commandWord 0 0 0 0 n f) :
    ∃ rs3 rs2 rs1 rd, w = commandWord rs3 rs2 rs1 rd n f ∧ (count ≤ 2 → rs3 = 0) ∧ (count = 1 → rs2 = 0) := by
  have hw := commandWord_of_fields w (zeroField_of_match h)
  rw [← hw, commandWord_and_fixedBits] at h
  obtain ⟨h3, h2, -, -, hn, hf⟩ := commandWord_inj h
  rw [hn, hf] at hw
  exact ⟨_, _, _, _, hw.symm, fun hc => by simpa [hc] using h3, fun hc => by simpa [hc] using h2⟩

theorem encode_matches_row (i : Instr) :
    encode i &&& (codeRow i.isNarrow (functionCode i)).mask = (codeRow i.isNarrow (functionCode i)).value := by
  simp only [codeRow, encode_eq_commandWord, operandCount_functionCode, commandWord_and_fixedBits]
  congr 1
  · simp only [Instr.sourceField]
    split_ifs with h
    · simp [List.getElem?_eq_none h]
    · rfl
  · simp only [Instr.sourceField]
    split_ifs with h
    · simp [List.getElem?_eq_none (Nat.le_of_eq h)]
    · rfl

/-- Settles O3: an encoding matches the row of its operation; a word that matches a row has the row's flag and code, which
select an operation on whatever stands in its register fields. -/
theorem acceptedWordsAreTheOpcodeTable : Obligations.AcceptedWordsAreTheOpcodeTable := by
  intro x w
  constructor
  · rintro ⟨i, hi⟩
    obtain ⟨hw, hwf⟩ := acceptedWordIsTheEncoding x w i hi
    exact ⟨_, mem_opcodeTable_iff.mpr ⟨i, rfl⟩, hw ▸ encode_matches_row i, wellFormed_iff_row.mp hwf⟩
  · rintro ⟨row, hmem, hmatch, hbuild⟩
    obtain ⟨i, rfl⟩ := mem_opcodeTable_iff.mp hmem
    obtain ⟨rs3, rs2, rs1, rd, rfl, h3, h2⟩ := exists_commandWord_of_match hmatch
    obtain ⟨j, hj⟩ := exists_selectFunction i rd rs1 rs2 rs3
    rw [operandCount_functionCode] at h3 h2
    exact ⟨j, decode_commandWord_of_wellFormed (wellFormed_iff_row.mpr hbuild) h3 h2 hj⟩

end Sys2Proof
end

section
/-! The block by its select codes (`30_encoding.md` R30 to R33, R36), and that executing an operation writes what the block
answers on the values of its source registers (R42). -/

namespace Sys2Proof.Machine

open Claims

/-! ### Select codes -/

theorem selectCode_toNat (n : Bool) (f : BitVec 5) : (selectCode n f).toNat = (if n then 2 ^ 5 else 0) + f.toNat := by
  rw [selectCode, toNat_append_eq_add]
  cases n <;> rfl

@[simp] theorem selectCode_func (n : Bool) (f : BitVec 5) : (selectCode n f).toNat % 32 = f.toNat := by
  have := f.isLt
  rw [selectCode_toNat]
  split_ifs <;> omega

@[simp] theorem selectCode_narrow (n : Bool) (f : BitVec 5) : (selectCode n f).getLsbD 5 = n := by
  rw [selectCode, BitVec.getLsbD_append, BitVec.getLsbD_ofBool]
  simp

theorem exists_selectCode_eq (sel : BitVec 6) : ∃ n f, selectCode n f = sel :=
  ⟨sel.getLsbD 5, sel.extractLsb' 0 5, by revert sel; decide⟩

theorem extractLsb'_select_commandWord (rs3 rs2 rs1 rd : Reg) (n : Bool) (f : BitVec 5) :
    (commandWord rs3 rs2 rs1 rd n f).extractLsb' 0 6 = selectCode n f := by
  apply BitVec.eq_of_getLsbD_eq
  intro i hi
  unfold commandWord selectCode
  simp only [BitVec.getLsbD_extractLsb', BitVec.getLsbD_append, BitVec.getLsbD_ofBool]
  interval_cases i <;> simp

/-- Bits 5:0 of a command word are the select code of its operation (R34). -/
theorem extractLsb'_select_encode (i : Instr) :
    (encode i).extractLsb' 0 6 = selectCode i.isNarrow i.funcBits := by
  rw [encode_eq_commandWord, extractLsb'_select_commandWord]

/-! ### The codes the block accepts -/

theorem blockSelOk_selectCode_iff {x : Xlen} {n : Bool} {f : BitVec 5} :
    blockSelOk x (selectCode n f) = true ↔
      IsOperationCode n f.toNat ∧ (x = .x64 ∨ (n = false ∧ needs64Bits f.toNat = false)) := by
  simp only [blockSelOk, IsOperationCode, selectCode_func, selectCode_narrow]
  cases x <;> cases n <;> simp

theorem blockSelOk_of_wellFormed {x : Xlen} {i : Instr} (h : wellFormed x i = true) :
    blockSelOk x (selectCode i.isNarrow i.funcBits) = true := by
  rw [blockSelOk_selectCode_iff, Instr.funcBits_toNat, needs64Bits_functionCode]
  exact ⟨isOperationCode_of_instr i, wellFormed_iff.mp h⟩

theorem blockSelOk_iff {x : Xlen} {sel : BitVec 6} :
    blockSelOk x sel = true ↔ ∃ i, wellFormed x i = true ∧ (encode i).extractLsb' 0 6 = sel := by
  simp only [extractLsb'_select_encode]
  constructor
  · intro h
    obtain ⟨n, f, rfl⟩ := exists_selectCode_eq sel
    obtain ⟨hcode, hbuild⟩ := blockSelOk_selectCode_iff.mp h
    obtain ⟨i, rfl, hf⟩ := isOperationCode_iff.mp hcode
    rw [← hf, needs64Bits_functionCode] at hbuild
    exact ⟨i, wellFormed_iff.mpr hbuild, congrArg _ (BitVec.eq_of_toNat_eq ((Instr.funcBits_toNat i).trans hf))⟩
  · rintro ⟨i, hwf, rfl⟩
    exact blockSelOk_of_wellFormed hwf

theorem blockFunction_isSome (c : Config) (i : Instr) (a b d : Word) :
    (blockFunction c (selectCode i.isNarrow i.funcBits) a b d).isSome = true := by
  unfold blockFunction
  rw [selectCode_toNat, Instr.funcBits_toNat]
  cases i <;> rfl

/-- Settles O24: an accepted code is that of an operation of the build, and the block has a function for every operation. -/
theorem selectCodesAcceptedByTheBlock : Obligations.SelectCodesAcceptedByTheBlock := by
  intro c sel
  refine ⟨blockSelOk_iff, fun a b d => ?_⟩
  unfold blockRes
  cases h : blockSelOk c.xlen sel with
  | false => rfl
  | true =>
    obtain ⟨i, -, rfl⟩ := blockSelOk_iff.mp h
    rw [extractLsb'_select_encode, if_pos rfl]
    exact blockFunction_isSome c i a b d

/-! ### Executing an operation -/

/-- `exec_shape` with the value named: it is the block's, and it has the build's width where a 32-bit build has the
operation. -/
theorem exec_block_shape (i : Instr) (s : State) (d2 d3 : Word) :
    ∃ v, blockFunction s.cfg (selectCode i.isNarrow i.funcBits) ((i.sources[0]?).elim 0 s.readReg)
        ((i.sources[1]?).elim d2 s.readReg) ((i.sources[2]?).elim d3 s.readReg) = some v ∧
      (exec i s =
        if wellFormed .x32 i then completeCommand i.rd v s else require64 i s (completeCommand i.rd v s)) ∧
      (wellFormed .x32 i = true → toXlen s.cfg.xlen v = v) := by
  unfold blockFunction
  rw [selectCode_toNat, Instr.funcBits_toNat]
  cases i <;> refine ⟨_, rfl, rfl, ?_⟩ <;> simp [wellFormed_x32_iff, Instr.isNarrow, Instr.needs64]

/-- An operation of the build completes with the block's result on its select code and the values of its sources, whatever
the ports it does not read carry. -/
theorem completesWith_blockRes {i : Instr} {s : State} (h : wellFormed s.cfg.xlen i = true) (d2 d3 : Word) :
    CompletesWith i s fun v =>
      blockRes s.cfg ((encode i).extractLsb' 0 6) ((i.sources[0]?).elim 0 s.readReg)
        ((i.sources[1]?).elim d2 s.readReg) ((i.sources[2]?).elim d3 s.readReg) = some v := by
  obtain ⟨v, hblock, hexec, hfit⟩ := exec_block_shape i s d2 d3
  rw [extractLsb'_select_encode]
  simp only [blockRes, blockSelOk_of_wellFormed h, if_true, hblock]
  cases hx : s.cfg.xlen with
  | x32 =>
    rw [hx] at h
    rw [if_pos h] at hexec
    exact completesWith_of_exec hexec (congrArg some (hfit h).symm)
  | x64 =>
    rw [require64_x64 hx, ite_self] at hexec
    exact completesWith_of_exec hexec (by rw [hx, toXlen_x64])

/-- Settles O18: only a 32-bit build lacks operations, and there their guard takes the exception. -/
theorem operationOutsideTheBuildFaults : Obligations.OperationOutsideTheBuildFaults := by
  intro i s h
  cases hx : s.cfg.xlen with
  | x64 => rw [hx, wellFormed_x64] at h; cases h
  | x32 =>
    rw [hx] at h
    obtain ⟨v, hv⟩ := exec_shape i s
    rw [hv, h, if_neg Bool.false_ne_true, require64_x32 hx]
    rfl

end Sys2Proof.Machine
end

section
/-! The step of a running sequencer, one equation per outcome (`30_encoding.md` R42), and the run to its end
(`70_reset_and_hazards.md` R176). -/

namespace Sys2Proof.Machine

/-! ### The step by its outcomes -/

theorem isReserved_iff {x : Xlen} {w : CommandWord} : isReserved x w = true ↔ ∃ r, decode x w = .error r := by
  unfold isReserved
  cases decode x w <;> simp

section outcome

variable {s : State} (hrun : s.status = .running)

include hrun

theorem step_of_atEnd (hend : s.pc = s.program.length) : step s = .next (haltRun s) := by
  have hfetch : s.fetch = .atEnd := by simp [State.fetch, hend]
  simp [step, hrun, hfetch]

variable {w : CommandWord} (hw : s.program[s.pc]? = some w)

include hw

theorem step_of_isReserved (hres : isReserved s.cfg.xlen w = true) : step s = .next (raiseReserved w s) := by
  obtain ⟨r, hr⟩ := isReserved_iff.mp hres
  simp [step, hrun, fetch_of_getElem? hw, hr]

theorem step_of_decode {i : Instr} (hd : decode s.cfg.xlen w = .ok i) : step s = exec i s := by
  simp [step, hrun, fetch_of_getElem? hw, hd]

end outcome

/-- Settles O7: it is the step's equation for an accepted word. -/
theorem stepRunsDecodedInstruction : Obligations.StepRunsDecodedInstruction :=
  fun _ _ _ hrun hw hd => step_of_decode hrun hw hd

/-- Settles O9: the three equations of the step; an accepted word carries the select code of its operation. -/
theorem stepFollowsTheSequencerRule : Obligations.StepFollowsTheSequencerRule := by
  intro s hrun
  refine ⟨step_of_atEnd hrun, fun w hw => ⟨step_of_isReserved hrun hw, fun i hd => ?_⟩⟩
  obtain ⟨t, hexec, hwrites, hres⟩ := completesWith_blockRes (wellFormed_of_decode hd) 0 0
  rw [encode_of_decode hd] at hres
  exact ⟨t, (step_of_decode hrun hw hd).trans hexec, hwrites, hres⟩

/-! ### The run to its end -/

/-- `t` is an end of the run of `s` (R176): halted at the end of the program or faulted at a reserved word of it. -/
def IsEndOfRun (s t : State) : Prop :=
  t.program = s.program ∧
    ((t.status = .halted ∧ t.pc = s.program.length) ∨
      ∃ w, t.status = .faulted .reservedCommand t.pc w ∧ s.program[t.pc]? = some w ∧ isReserved s.cfg.xlen w = true)

/-- The ends of a run are those of every state with the same program and build. -/
theorem IsEndOfRun.of_eq {s u t : State} (h : IsEndOfRun u t) (hprogram : u.program = s.program) (hcfg : u.cfg = s.cfg) :
    IsEndOfRun s t := by
  unfold IsEndOfRun at h ⊢
  rwa [hprogram, hcfg] at h

/-- A running sequencer inside its program ends the run in one step or completes a command and runs on. -/
theorem step_ends_or_advances {s : State} (hrun : s.status = .running) (hpc : s.pc ≤ s.program.length) :
    (∃ t, step s = .next t ∧ IsEndOfRun s t) ∨
      s.pc < s.program.length ∧ ∃ rd t, step s = .next t ∧ State.OnlyWrites rd s t := by
  obtain ⟨w, hw, -, hlt⟩ | ⟨hend, -⟩ | ⟨hbeyond, -⟩ := fetch_cases s
  · cases hd : decode s.cfg.xlen w with
    | error r =>
      have hres := isReserved_iff.mpr ⟨r, hd⟩
      exact .inl ⟨_, step_of_isReserved hrun hw hres, rfl, .inr ⟨w, rfl, hw, hres⟩⟩
    | ok i =>
      obtain ⟨v, hv⟩ := exec_of_wellFormed (wellFormed_of_decode hd)
      exact .inr ⟨hlt, i.rd, _, (step_of_decode hrun hw hd).trans hv, onlyWrites_completed i.rd v s⟩
  · exact .inl ⟨_, step_of_atEnd hrun hend, rfl, .inl ⟨rfl, hend⟩⟩
  · omega

theorem run_ends {bound : Nat} {s : State} (hrun : s.status = .running) (hpc : s.pc ≤ s.program.length)
    (hleft : s.program.length - s.pc < bound) : ∃ k ≤ bound, ∃ t, core.run k s = .next t ∧ IsEndOfRun s t := by
  induction bound generalizing s with
  | zero => omega
  | succ bound ih =>
    obtain ⟨t, ht, hend⟩ | ⟨hlt, rd, u, hu, hwrites⟩ := step_ends_or_advances hrun hpc
    · exact ⟨1, by omega, t, run_succ_eq_next_iff.mpr ⟨t, ht, rfl⟩, hend⟩
    · obtain ⟨hnext, -, hstatus, hprogram, hcfg⟩ := hwrites
      have hpc' : u.pc ≤ u.program.length := by rw [hnext, hprogram]; exact hlt
      have hleft' : u.program.length - u.pc < bound := by rw [hnext, hprogram]; omega
      obtain ⟨k, hk, t, ht, hend⟩ := ih (hstatus.trans hrun) hpc' hleft'
      exact ⟨k + 1, by omega, t, run_succ_eq_next_iff.mpr ⟨u, hu, ht⟩, hend.of_eq hprogram hcfg⟩

/-- Settles O14: by induction on a bound for the number of words left; each step that does not end the run takes one. -/
theorem everyRunEnds : Obligations.EveryRunEnds :=
  fun _ hrun hpc => run_ends hrun hpc (Nat.lt_succ_self _)

end Sys2Proof.Machine
end

section
/-! The OR-combining network by bits (`40_bitpermute.md` R54, R55). -/

namespace Sys2Proof.Machine

open Claims

variable {W : Nat}

/-- Positions `i` and `j` differ only in index bits below `n` where the control `k` has a one. -/
def DiffersWithin (k n i j : Nat) : Prop := ∀ t, (i ^^^ j).testBit t = true → t < n ∧ k.testBit t = true

theorem differsWithin_zero_iff {k i j : Nat} : DiffersWithin k 0 i j ↔ i = j := by
  constructor
  · intro h
    refine Nat.xor_eq_zero_iff.mp (Nat.eq_of_testBit_eq fun t => ?_)
    simpa using fun ht => h t ht
  · rintro rfl t ht
    simp at ht

/-- One more index bit `n`: either the two positions agree in it, or it is under a one of the control and they agree once it
is flipped. -/
theorem differsWithin_succ_iff {k n i j : Nat} :
    DiffersWithin k (n + 1) i j ↔
      DiffersWithin k n i j ∨ (k.testBit n = true ∧ DiffersWithin k n (i ^^^ 2 ^ n) j) := by
  have hflip : ∀ t, ((i ^^^ 2 ^ n) ^^^ j).testBit t = ((i ^^^ j).testBit t ^^ decide (n = t)) := fun t => by
    rw [Nat.testBit_xor, Nat.testBit_xor, Nat.testBit_xor, Nat.testBit_two_pow, Bool.xor_right_comm]
  constructor
  · intro h
    cases hn : (i ^^^ j).testBit n with
    | false =>
      refine .inl fun t ht => ?_
      have hne : t ≠ n := by rintro rfl; simp [hn] at ht
      obtain ⟨hlt, hk⟩ := h t ht
      exact ⟨by omega, hk⟩
    | true =>
      refine .inr ⟨(h n hn).2, fun t ht => ?_⟩
      rw [hflip] at ht
      have hne : n ≠ t := by rintro rfl; simp [hn] at ht
      obtain ⟨hlt, hk⟩ := h t (by simpa [hne] using ht)
      exact ⟨by omega, hk⟩
  · rintro (h | ⟨hk, h⟩) t ht
    · obtain ⟨hlt, hkt⟩ := h t ht
      exact ⟨by omega, hkt⟩
    · by_cases hne : n = t
      · subst hne; exact ⟨by omega, hk⟩
      · obtain ⟨hlt, hkt⟩ := h t (by simpa [hflip, hne] using ht)
        exact ⟨by omega, hkt⟩

/-- The control's ones below `2^n` cover a position difference exactly when the positions differ within them. -/
theorem and_mod_eq_iff {k n i j : Nat} : (i ^^^ j) &&& (k % 2 ^ n) = i ^^^ j ↔ DiffersWithin k n i j := by
  constructor
  · intro h t ht
    rw [← h, Nat.testBit_and, Nat.testBit_mod_two_pow] at ht
    simpa using (Bool.and_eq_true_iff.mp ht).2
  · intro h
    refine Nat.eq_of_testBit_eq fun t => ?_
    rw [Nat.testBit_and, Nat.testBit_mod_two_pow]
    cases ht : (i ^^^ j).testBit t with
    | false => rfl
    | true => obtain ⟨hlt, hk⟩ := h t ht; simp [hlt, hk]

/-- The value after the first `n` stages of the OR-combining network. -/
def gorcStages (a b : BitVec W) (n : Nat) : BitVec W :=
  (List.range n).foldl (fun x j => if b.getLsbD j then mergeStage x j else x) a

theorem gorc_eq_gorcStages (a b : BitVec W) : gorc W a b = gorcStages a b (Nat.log2 W) := rfl

theorem gorcStages_succ (a b : BitVec W) (n : Nat) :
    gorcStages a b (n + 1) = if b.getLsbD n then mergeStage (gorcStages a b n) n else gorcStages a b n := by
  simp [gorcStages, List.range_succ]

/-- After `n` stages a bit is the OR of the bits whose position differs only where the control has a one below `n`. -/
theorem gorcStages_getLsbD (hW : W = 32 ∨ W = 64) (a b : BitVec W) {n : Nat} (hn : n ≤ Nat.log2 W) {i : Nat}
    (hi : i < W) :
    (gorcStages a b n).getLsbD i = true ↔ ∃ j, a.getLsbD j = true ∧ DiffersWithin b.toNat n i j := by
  induction n generalizing i with
  | zero => simp [gorcStages, differsWithin_zero_iff]
  | succ n ih =>
    have hflip := xor_lt_width hW hi hn
    simp only [gorcStages_succ, differsWithin_succ_iff, BitVec.testBit_toNat]
    cases hb : b.getLsbD n with
    | false => simpa using ih (by omega) hi
    | true =>
      simp only [if_true, mergeStage_getLsbD hW _ hi hn, Bool.or_eq_true, ih (by omega) hi, ih (by omega) hflip,
        true_and, and_or_left, exists_or]

/-- The closed form of R54, for operands cut from two ports. -/
theorem gorc_setWidth_getLsbD (hW : W = 32 ∨ W = 64) (a b : Word) {i : Nat} (hi : i < W) :
    (gorc W (a.setWidth W) (b.setWidth W)).getLsbD i = gorcBit W a (b.toNat % W) i := by
  obtain ⟨-, -, hlog⟩ := log2_width_le hW
  have hdvd : W ∣ 2 ^ W := by rcases hW with rfl | rfl <;> norm_num
  have hcontrol : b.toNat % W = (b.setWidth W).toNat % 2 ^ Nat.log2 W := by
    rw [← hlog, BitVec.toNat_setWidth, Nat.mod_mod_of_dvd _ hdvd]
  rw [Bool.eq_iff_iff, gorc_eq_gorcStages, gorcStages_getLsbD hW _ _ le_rfl hi, hcontrol]
  simp only [gorcBit, List.any_eq_true, List.mem_range, Bool.and_eq_true, beq_iff_eq, and_mod_eq_iff,
    BitVec.getLsbD_setWidth, decide_eq_true_eq, and_assoc]

/-- Settles O28: the narrow form is the network at `W = 32`, widened. -/
theorem gorcwByBits : Obligations.GorcwByBits := by
  intro s rd rs1 rs2 hx
  exact completesWith_of_exec_require64 hx rfl
    (narrowBits_narrow2 fun i hi => gorc_setWidth_getLsbD (.inl rfl) _ _ hi)

end Sys2Proof.Machine
end

section
/-! The reversing network by bits (`40_bitpermute.md` R52). -/

namespace Sys2Proof.Machine

open Claims

variable {W : Nat}

/-- The control mod `W` is the same whether it is read from the port or from the operand cut from it. -/
theorem setWidth_toNat_mod_width (hW : W = 32 ∨ W = 64) (b : Word) : (b.setWidth W).toNat % W = b.toNat % W := by
  have hdvd : W ∣ 2 ^ W := by rcases hW with rfl | rfl <;> norm_num
  rw [BitVec.toNat_setWidth, Nat.mod_mod_of_dvd _ hdvd]

/-- The position that the reversing network reads lies inside the word. -/
theorem xor_mod_width_lt (hW : W = 32 ∨ W = 64) {i : Nat} (hi : i < W) (k : Nat) : i ^^^ (k % W) < W := by
  obtain ⟨-, -, hlog⟩ := log2_width_le hW
  have hk : k % W < W := Nat.mod_lt _ (by omega)
  rw [hlog] at hi hk ⊢
  exact Nat.xor_lt_two_pow hi hk

/-- The low `n + 1` bits of the control are its low `n` bits, with index bit `n` flipped where the control has it. -/
theorem mod_two_pow_succ_eq_xor (k n : Nat) :
    k % 2 ^ (n + 1) = if k.testBit n then 2 ^ n ^^^ (k % 2 ^ n) else k % 2 ^ n := by
  refine Nat.eq_of_testBit_eq fun t => ?_
  have hlt : t < n + 1 ↔ t < n ∨ n = t := by omega
  obtain rfl | hne := eq_or_ne n t
  · cases hn : k.testBit n <;> simp [Nat.testBit_mod_two_pow, Nat.testBit_xor, hn]
  · split_ifs <;> simp [Nat.testBit_mod_two_pow, Nat.testBit_xor, hlt, hne]

/-- The value after the first `n` stages of the reversing network. -/
def grevStages (a b : BitVec W) (n : Nat) : BitVec W :=
  (List.range n).foldl (fun x j => if b.getLsbD j then swapStage x j else x) a

theorem grev_eq_grevStages (a b : BitVec W) : grev W a b = grevStages a b (Nat.log2 W) := rfl

theorem grevStages_succ (a b : BitVec W) (n : Nat) :
    grevStages a b (n + 1) = if b.getLsbD n then swapStage (grevStages a b n) n else grevStages a b n := by
  simp [grevStages, List.range_succ]

/-- After `n` stages a bit comes from the position with the control's low `n` bits flipped. -/
theorem grevStages_getLsbD (hW : W = 32 ∨ W = 64) (a b : BitVec W) {n : Nat} (hn : n ≤ Nat.log2 W) {i : Nat}
    (hi : i < W) : (grevStages a b n).getLsbD i = a.getLsbD (i ^^^ (b.toNat % 2 ^ n)) := by
  induction n generalizing i with
  | zero => simp [grevStages, Nat.mod_one]
  | succ n ih =>
    rw [grevStages_succ, mod_two_pow_succ_eq_xor, BitVec.testBit_toNat]
    cases b.getLsbD n with
    | false => exact ih (by omega) hi
    | true =>
      have hflip := xor_lt_width hW hi hn
      rw [if_pos rfl, if_pos rfl, swapStage_getLsbD hW _ hi hn, ih (by omega) hflip, Nat.xor_assoc]

/-- R52 by bits, at either width: bit `i` comes from position `i xor (b mod W)`. -/
theorem grev_getLsbD (hW : W = 32 ∨ W = 64) (a b : BitVec W) {i : Nat} (hi : i < W) :
    (grev W a b).getLsbD i = a.getLsbD (i ^^^ (b.toNat % W)) := by
  obtain ⟨-, -, hlog⟩ := log2_width_le hW
  rw [grev_eq_grevStages, grevStages_getLsbD hW a b le_rfl hi, ← hlog]

/-- The same for operands cut from two ports: the source position lies inside the word, so the cut does not matter. -/
theorem grev_setWidth_getLsbD (hW : W = 32 ∨ W = 64) (a b : Word) {i : Nat} (hi : i < W) :
    (grev W (a.setWidth W) (b.setWidth W)).getLsbD i = a.getLsbD (i ^^^ (b.toNat % W)) := by
  rw [grev_getLsbD hW _ _ hi, setWidth_toNat_mod_width hW, BitVec.getLsbD_setWidth,
    decide_eq_true (xor_mod_width_lt hW hi b.toNat), Bool.true_and]

/-- Settles O25: the word is an instance of O4; the result is the native form of the network, by bits. -/
theorem grevByBits : Obligations.GrevByBits := by
  intro s rd rs1 rs2
  constructor
  · simpa [Instr.sources, Instr.rd, Instr.isNarrow, functionCode] using commandWordValue (.grev rd rs1 rs2)
  · refine completesWith_of_exec rfl ?_
    rw [toXlen_native2]
    exact nativeBits_native2 fun i hi => grev_setWidth_getLsbD (Xlen.bits_cases _) _ _ hi

end Sys2Proof.Machine
end

section
/-! The carry-less multiplier as an XOR of shifted operands: its halves, its symmetry and its linearity
(`41_carryless_mul.md` R60, R64). -/

namespace Sys2Proof.Machine

variable {W V U : Nat}

/-! ### Functions that are linear over XOR -/

/-- The function takes the XOR of two words to the XOR of their images. -/
def IsXorLinear (f : BitVec W → BitVec V) : Prop := ∀ x y, f (x ^^^ y) = f x ^^^ f y

theorem IsXorLinear.map_zero {f : BitVec W → BitVec V} (hf : IsXorLinear f) : f 0 = 0 := by
  simpa using hf 0 0

theorem isXorLinear_shiftLeft (n : Nat) : IsXorLinear fun x : BitVec W => x <<< n :=
  fun x y => BitVec.shiftLeft_xor_distrib x y n

theorem isXorLinear_ushiftRight (n : Nat) : IsXorLinear fun x : BitVec W => x >>> n :=
  fun x y => BitVec.ushiftRight_xor_distrib x y n

theorem isXorLinear_extractLsb' (start len : Nat) : IsXorLinear (BitVec.extractLsb' start len : BitVec W → BitVec len) :=
  fun _ _ => BitVec.extractLsb'_xor

/-! ### The XOR of the terms that an operand selects -/

/-- The loop of the multiplier: the XOR of the terms at those indices of the list where `b` has a one. -/
def xorWhere (l : List Nat) (b : BitVec W) (g : Nat → BitVec V) : BitVec V :=
  l.foldl (fun x i => if b.getLsbD i then x ^^^ g i else x) 0

theorem carrylessProduct_eq_xorWhere (a b : BitVec W) :
    carrylessProduct W a b = xorWhere (List.range W) b fun i => a.setWidth (2 * W) <<< i := rfl

theorem clmul_eq_xorWhere (a b : BitVec W) : clmul W a b = xorWhere (List.range W) b fun i => a <<< i := rfl

theorem clmulh_eq_xorWhere (a b : BitVec W) :
    clmulh W a b = xorWhere (List.range' 1 (W - 1)) b fun i => a >>> (W - i) := rfl

theorem clmulr_eq_xorWhere (a b : BitVec W) :
    clmulr W a b = xorWhere (List.range W) b fun i => a >>> (W - i - 1) := rfl

@[simp] theorem xorWhere_nil (b : BitVec W) (g : Nat → BitVec V) : xorWhere [] b g = 0 := rfl

/-- The loop from any start value is the start value XORed with the loop from 0. -/
theorem foldl_eq_xor_xorWhere (l : List Nat) (b : BitVec W) (g : Nat → BitVec V) (x : BitVec V) :
    l.foldl (fun x i => if b.getLsbD i then x ^^^ g i else x) x = x ^^^ xorWhere l b g := by
  induction l generalizing x with
  | nil => simp
  | cons i l ih =>
    rw [xorWhere, List.foldl_cons, List.foldl_cons, ih, ih (if b.getLsbD i then 0 ^^^ g i else 0)]
    cases b.getLsbD i <;> simp [BitVec.xor_assoc]

@[simp] theorem xorWhere_cons (i : Nat) (l : List Nat) (b : BitVec W) (g : Nat → BitVec V) :
    xorWhere (i :: l) b g = (if b.getLsbD i then g i else 0) ^^^ xorWhere l b g := by
  rw [← foldl_eq_xor_xorWhere, xorWhere, List.foldl_cons]
  simp

@[simp] theorem xorWhere_zero (l : List Nat) (b : BitVec W) : (xorWhere l b fun _ => 0#V) = 0 := by
  induction l with
  | nil => rfl
  | cons i l ih => simp [ih]

theorem xorWhere_range_succ (n : Nat) (b : BitVec W) (g : Nat → BitVec V) :
    xorWhere (List.range (n + 1)) b g = xorWhere (List.range n) b g ^^^ if b.getLsbD n then g n else 0 := by
  rw [xorWhere, List.range_succ, List.foldl_append, foldl_eq_xor_xorWhere, foldl_eq_xor_xorWhere]
  simp

theorem xorWhere_congr {l : List Nat} (b : BitVec W) {g g' : Nat → BitVec V} (h : ∀ i ∈ l, g i = g' i) :
    xorWhere l b g = xorWhere l b g' :=
  List.foldl_ext _ _ _ fun x i hi => by rw [h i hi]

/-- The XOR of the terms is linear in the operand that selects them. -/
theorem isXorLinear_xorWhere (l : List Nat) (g : Nat → BitVec V) : IsXorLinear fun b : BitVec W => xorWhere l b g := by
  intro b b'
  induction l with
  | nil => simp
  | cons i l ih =>
    simp only [xorWhere_cons] at ih ⊢
    have hterm : (if (b ^^^ b').getLsbD i then g i else 0) =
        (if b.getLsbD i then g i else 0) ^^^ if b'.getLsbD i then g i else 0 := by
      rw [BitVec.getLsbD_xor]
      cases b.getLsbD i <;> cases b'.getLsbD i <;> simp
    rw [ih, hterm]
    ac_rfl

/-- The XOR of the terms is linear in the terms. -/
theorem xorWhere_xor (l : List Nat) (b : BitVec W) (g g' : Nat → BitVec V) :
    (xorWhere l b fun i => g i ^^^ g' i) = xorWhere l b g ^^^ xorWhere l b g' := by
  induction l with
  | nil => simp
  | cons i l ih =>
    rw [xorWhere_cons, xorWhere_cons, xorWhere_cons, ih]
    cases b.getLsbD i with
    | false => simp
    | true => simp only [if_true]; ac_rfl

/-- A linear function may be applied term by term. -/
theorem IsXorLinear.map_xorWhere {f : BitVec V → BitVec U} (hf : IsXorLinear f) (l : List Nat) (b : BitVec W)
    (g : Nat → BitVec V) : f (xorWhere l b g) = xorWhere l b fun i => f (g i) := by
  induction l with
  | nil => exact hf.map_zero
  | cons i l ih => rw [xorWhere_cons, xorWhere_cons, hf, ih, apply_ite f, hf.map_zero]

/-- Two selections may be made in either order. -/
theorem xorWhere_comm (l l' : List Nat) (b : BitVec W) (a : BitVec U) (g : Nat → Nat → BitVec V) :
    (xorWhere l b fun i => xorWhere l' a fun j => g i j) = xorWhere l' a fun j => xorWhere l b fun i => g i j := by
  induction l with
  | nil => simp
  | cons i l ih =>
    simp only [xorWhere_cons, xorWhere_xor, ih]
    cases b.getLsbD i <;> simp

/-! ### The full product -/

/-- The XOR of the powers of two at the ones of `a` below `n` has those bits of `a`. -/
theorem xorWhere_range_twoPow_getLsbD (a : BitVec W) (n : Nat) {i : Nat} (hi : i < V) :
    (xorWhere (List.range n) a (BitVec.twoPow V)).getLsbD i = (decide (i < n) && a.getLsbD i) := by
  induction n with
  | zero => simp
  | succ n ih =>
    rw [xorWhere_range_succ, BitVec.getLsbD_xor, ih]
    obtain rfl | hne := eq_or_ne n i
    · cases a.getLsbD n <;> simp [hi]
    · have hlt : i < n + 1 ↔ i < n := by omega
      cases a.getLsbD n <;> simp [hlt, hne]

/-- A word, in any width, is the XOR of the powers of two at its ones. -/
theorem setWidth_eq_xorWhere_twoPow (a : BitVec W) :
    a.setWidth V = xorWhere (List.range W) a (BitVec.twoPow V) := by
  refine BitVec.eq_of_getLsbD_eq fun i hi => ?_
  rw [xorWhere_range_twoPow_getLsbD a W hi]
  simpa [hi] using BitVec.lt_of_getLsbD

/-- R60, R64: the product is the XOR of `2^(i+j)` over the ones `j` of `a` and `i` of `b`, so it is symmetric. -/
theorem carrylessProduct_comm (a b : BitVec W) : carrylessProduct W a b = carrylessProduct W b a := by
  have hterm : ∀ (c : BitVec W) i,
      c.setWidth (2 * W) <<< i = xorWhere (List.range W) c fun j => BitVec.twoPow (2 * W) (j + i) := fun c i => by
    rw [setWidth_eq_xorWhere_twoPow, (isXorLinear_shiftLeft i).map_xorWhere]
    simp only [BitVec.twoPow, BitVec.shiftLeft_add]
  simp only [carrylessProduct_eq_xorWhere, hterm]
  rw [xorWhere_comm]
  simp only [Nat.add_comm]

/-- `clmul` is the low half of the product (R61). -/
theorem extractLsb'_low_carrylessProduct (a b : BitVec W) :
    (carrylessProduct W a b).extractLsb' 0 W = clmul W a b := by
  rw [carrylessProduct_eq_xorWhere, (isXorLinear_extractLsb' 0 W).map_xorWhere, clmul_eq_xorWhere]
  refine xorWhere_congr b fun i _ => BitVec.eq_of_getLsbD_eq fun n hn => ?_
  have hwide : n < 2 * W ∧ n - i < 2 * W := by omega
  simp [hn, hwide, -BitVec.getLsbD_eq_getElem]

/-- The loop of `clmulh` may start at index 0: that term is shifted out whole (R62). -/
theorem clmulh_eq_xorWhere_range (a b : BitVec W) :
    clmulh W a b = xorWhere (List.range W) b fun i => a >>> (W - i) := by
  rw [clmulh_eq_xorWhere]
  cases W with
  | zero => rfl
  | succ n => simp [List.range_eq_range', List.range'_succ, BitVec.ushiftRight_eq_zero]

/-- `clmulh` is the high half of the product (R62). -/
theorem extractLsb'_high_carrylessProduct (a b : BitVec W) :
    (carrylessProduct W a b).extractLsb' W W = clmulh W a b := by
  rw [carrylessProduct_eq_xorWhere, (isXorLinear_extractLsb' W W).map_xorWhere, clmulh_eq_xorWhere_range]
  refine xorWhere_congr b fun i hi => BitVec.eq_of_getLsbD_eq fun n hn => ?_
  have hlt : i < W := List.mem_range.mp hi
  have hwide : W + n < 2 * W ∧ W + n - i < 2 * W ∧ ¬ W + n < i := by omega
  have hpos : W + n - i = W - i + n := by omega
  simp [hn, hwide, hpos]

/-- R64: the two halves next to each other are the full product. -/
theorem clmulh_append_clmul_toNat (a b : BitVec W) :
    (clmulh W a b ++ clmul W a b).toNat = (carrylessProduct W a b).toNat := by
  have hhigh : (carrylessProduct W a b).toNat / 2 ^ W < 2 ^ W := by
    rw [Nat.div_lt_iff_lt_mul (Nat.two_pow_pos W), ← Nat.pow_add, ← Nat.two_mul]
    exact (carrylessProduct W a b).isLt
  rw [toNat_append_eq_add, ← extractLsb'_low_carrylessProduct, ← extractLsb'_high_carrylessProduct,
    BitVec.extractLsb'_toNat, BitVec.extractLsb'_toNat, Nat.shiftRight_zero, Nat.shiftRight_eq_div_pow,
    Nat.mod_eq_of_lt hhigh, Nat.div_add_mod']

/-! ### Linearity -/

/-- A multiplier loop whose terms are linear images of `a` is linear in each operand. -/
theorem xorWhere_bilinear (l : List Nat) {f : Nat → BitVec W → BitVec V} (hf : ∀ i, IsXorLinear (f i)) (b : BitVec W) :
    IsXorLinear (fun a => xorWhere l b fun i => f i a) ∧ IsXorLinear (fun a : BitVec W => xorWhere l a fun i => f i b) :=
  ⟨fun a a' => by simp only [hf _ a a', xorWhere_xor], isXorLinear_xorWhere l _⟩

/-- Settles O31: the halves are bit fields of the product; each function is a loop over shifts, which are linear. -/
theorem clmulHalvesMakeTheProduct : Obligations.ClmulHalvesMakeTheProduct := by
  intro W _ a a' b
  have hlinear : ∀ f ∈ [clmul W, clmulh W, clmulr W], IsXorLinear (fun x => f x b) ∧ IsXorLinear (f b) := by
    simp only [List.forall_mem_cons]
    exact ⟨xorWhere_bilinear _ isXorLinear_shiftLeft b,
      xorWhere_bilinear _ (fun i => isXorLinear_ushiftRight (W - i)) b,
      xorWhere_bilinear _ (fun i => isXorLinear_ushiftRight (W - i - 1)) b, List.forall_mem_nil _⟩
  exact ⟨clmulh_append_clmul_toNat a b, carrylessProduct_comm a b,
    fun f hf => (hlinear f hf).imp (fun hleft => hleft a a') (fun hright => hright a a')⟩

end Sys2Proof.Machine
end

section
/-! The funnel shift as a rotation of the pair of data operands, by bits (`42_funnel_shift.md` R70 to R74). -/

namespace Sys2Proof.Machine

variable {W : Nat}

/-! ### The funnel at any width -/

/-- Below the width, a shift takes its low bits from the top of `lo` and the rest from `hi` (R70). -/
theorem funnelHigh_getLsbD (hi lo : BitVec W) {sh i : Nat} (hsh : sh < W) (hiW : i < W) :
    (funnelHigh hi lo sh).getLsbD i = if sh ≤ i then hi.getLsbD (i - sh) else lo.getLsbD (W + i - sh) := by
  unfold funnelHigh
  by_cases h0 : sh = 0
  · simp [h0]
  · rw [if_neg h0, BitVec.getLsbD_or, BitVec.getLsbD_shiftLeft, BitVec.getLsbD_ushiftRight]
    split_ifs with hle
    · have hlo : lo.getLsbD (W - sh + i) = false := BitVec.getLsbD_of_ge _ _ (by omega)
      simp [hiW, Nat.not_lt.mpr hle, hlo]
    · have hpos : W - sh + i = W + i - sh := by omega
      simp [Nat.lt_of_not_le hle, hpos]

/-- Where bit `i` of the high half of a `2W`-bit value rotated left by `sh` comes from: `sh` positions below, wrapping around
at most once. -/
theorem add_rotated_position {sh i : Nat} (hsh : sh < 2 * W) (hi : i < W) :
    sh + (W + i + (2 * W - sh)) % (2 * W) = W + i ∨ sh + (W + i + (2 * W - sh)) % (2 * W) = W + i + 2 * W := by
  by_cases hle : sh ≤ W + i
  · have hwrap : W + i + (2 * W - sh) = W + i - sh + 2 * W := by omega
    rw [hwrap, Nat.add_mod_right, Nat.mod_eq_of_lt (by omega)]
    omega
  · rw [Nat.mod_eq_of_lt (by omega)]
    omega

/-- R70: the funnel is the high half of `a ++ c` rotated left; the swap at `W` is what makes it a rotation. -/
theorem funnel_getLsbD (a c : BitVec W) {sh i : Nat} (hsh : sh < 2 * W) (hi : i < W) :
    (funnel W a sh c).getLsbD i = (a ++ c).getLsbD ((W + i + (2 * W - sh)) % (2 * W)) := by
  have hpos := add_rotated_position hsh hi
  have hlt : (W + i + (2 * W - sh)) % (2 * W) < 2 * W := Nat.mod_lt _ (by omega)
  generalize (W + i + (2 * W - sh)) % (2 * W) = p at hpos hlt
  rw [BitVec.getLsbD_append, funnel]
  by_cases hswap : W ≤ sh
  · rw [if_pos hswap, funnelHigh_getLsbD c a (by omega) hi]
    by_cases hlow : sh - W ≤ i
    · have hp : i - (sh - W) = p := by omega
      rw [if_pos hlow, if_pos (by omega), hp]
    · have hp : W + i - (sh - W) = p - W := by omega
      rw [if_neg hlow, if_neg (by omega), hp]
  · rw [if_neg hswap, funnelHigh_getLsbD a c (by omega) hi]
    by_cases hlow : sh ≤ i
    · have hp : i - sh = p - W := by omega
      rw [if_pos hlow, if_neg (by omega), hp]
    · have hp : W + i - sh = p := by omega
      rw [if_neg hlow, if_pos (by omega), hp]

/-! ### The two functions -/

/-- R71 by bits: a rotation left by `b mod 2W`. -/
theorem fsl_getLsbD (a b c : BitVec W) {i : Nat} (hi : i < W) :
    (fsl W a b c).getLsbD i = (a ++ c).getLsbD ((W + i + (2 * W - b.toNat % (2 * W))) % (2 * W)) :=
  funnel_getLsbD a c (Nat.mod_lt _ (by omega)) hi

/-- R72 by bits: a rotation right by `b mod 2W`, because rotating left by the negated amount undoes the negation. -/
theorem fsr_getLsbD (a b c : BitVec W) {i : Nat} (hi : i < W) :
    (fsr W a b c).getLsbD i = (a ++ c).getLsbD ((W + i + b.toNat % (2 * W)) % (2 * W)) := by
  have hlt : b.toNat % (2 * W) < 2 * W := Nat.mod_lt _ (by omega)
  rw [fsr, funnel_getLsbD a c (Nat.mod_lt _ (by omega)) hi]
  obtain h0 | hpos := Nat.eq_zero_or_pos (b.toNat % (2 * W))
  · simp [h0]
  · have hneg : 2 * W - (2 * W - b.toNat % (2 * W)) = b.toNat % (2 * W) := by omega
    rw [Nat.mod_eq_of_lt (a := 2 * W - b.toNat % (2 * W)) (by omega), hneg]

/-- The amount is the same whether it is read from the port or from the operand cut from it. -/
theorem setWidth_toNat_mod_two_mul_width (hW : W = 32 ∨ W = 64) (b : Word) :
    (b.setWidth W).toNat % (2 * W) = b.toNat % (2 * W) := by
  have hdvd : 2 * W ∣ 2 ^ W := by rcases hW with rfl | rfl <;> norm_num
  rw [BitVec.toNat_setWidth, Nat.mod_mod_of_dvd _ hdvd]

/-- Settles O34: both are the functions at `W = 32` on the low halves, widened; the amount mod 64 is in the low half. -/
theorem narrowFunnelShiftByBits : Obligations.NarrowFunnelShiftByBits := by
  intro s rd rs1 rs2 rs3 hx ac sh
  have hamount : ((s.readReg rs2).setWidth 32).toNat % (2 * 32) = sh :=
    setWidth_toNat_mod_two_mul_width (.inl rfl) _
  constructor
  · refine completesWith_of_exec_require64 hx rfl (narrowBits_narrow3 fun i hi => ?_)
    rw [fsl_getLsbD _ _ _ hi, hamount]
  · refine completesWith_of_exec_require64 hx rfl (narrowBits_narrow3 fun i hi => ?_)
    rw [fsr_getLsbD _ _ _ hi, hamount]

end Sys2Proof.Machine
end

section
/-! The perfect-shuffle network by bits: a list of stages as a movement of bit positions, and the narrow forms
(`43_shuffle.md` R81 to R85). -/

namespace Sys2Proof.Machine

open Claims

variable {W : Nat}

/-! ### Positions -/

/-- Exchanging two index bits below `log2 W` stays inside the word. -/
theorem exchangeIndexBits_lt_width (hW : W = 32 ∨ W = 64) {j p : Nat} (hj : j + 1 < Nat.log2 W) (hp : p < W) :
    exchangeIndexBits j p < W := by
  unfold exchangeIndexBits
  split_ifs
  · exact hp
  · obtain ⟨-, -, hlog⟩ := log2_width_le hW
    have hpos : 0 < 2 ^ j := Nat.two_pow_pos j
    have hmask : 3 * 2 ^ j < 2 ^ Nat.log2 W := calc
      3 * 2 ^ j < 2 ^ (j + 2) := by rw [Nat.pow_add]; omega
      _ ≤ 2 ^ Nat.log2 W := Nat.pow_le_pow_right (by omega) hj
    rw [hlog] at hp ⊢
    exact Nat.xor_lt_two_pow hp hmask

@[simp] theorem shuffleSource_nil (k p : Nat) : shuffleSource [] k p = p := rfl

@[simp] theorem shuffleSource_cons (j : Nat) (stages : List Nat) (k p : Nat) :
    shuffleSource (j :: stages) k p =
      if k.testBit j then exchangeIndexBits j (shuffleSource stages k p) else shuffleSource stages k p := rfl

theorem shuffleSource_lt_width (hW : W = 32 ∨ W = 64) {stages : List Nat} (hstages : ∀ j ∈ stages, j + 1 < Nat.log2 W)
    (k : Nat) {p : Nat} (hp : p < W) : shuffleSource stages k p < W := by
  induction stages with
  | nil => exact hp
  | cons j stages ih =>
    obtain ⟨hj, hrest⟩ := List.forall_mem_cons.mp hstages
    rw [shuffleSource_cons]
    split_ifs
    · exact exchangeIndexBits_lt_width hW hj (ih hrest)
    · exact ih hrest

/-! ### The network -/

/-- The stages `stages` of the network, first stage first, on `x` under the control `k`. -/
def shuffleStages (stages : List Nat) (k : Nat) (x : BitVec W) : BitVec W :=
  stages.foldl (fun x j => if k.testBit j then shuffleStage x j else x) x

@[simp] theorem shuffleStages_nil (k : Nat) (x : BitVec W) : shuffleStages [] k x = x := rfl

@[simp] theorem shuffleStages_cons (j : Nat) (stages : List Nat) (k : Nat) (x : BitVec W) :
    shuffleStages (j :: stages) k x = shuffleStages stages k (if k.testBit j then shuffleStage x j else x) := rfl

theorem shfl_eq_shuffleStages (a b : BitVec W) :
    shfl W a b = shuffleStages (List.range (Nat.log2 W - 1)).reverse (b.toNat % (W / 2)) a := rfl

theorem unshfl_eq_shuffleStages (a b : BitVec W) :
    unshfl W a b = shuffleStages (List.range (Nat.log2 W - 1)) (b.toNat % (W / 2)) a := rfl

/-- R81 for any list of stages: the value of a bit is that of its source, traced from the last stage back to the first. -/
theorem shuffleStages_getLsbD (hW : W = 32 ∨ W = 64) {stages : List Nat} (hstages : ∀ j ∈ stages, j + 1 < Nat.log2 W)
    (k : Nat) (x : BitVec W) {p : Nat} (hp : p < W) :
    (shuffleStages stages k x).getLsbD p = x.getLsbD (shuffleSource stages k p) := by
  induction stages generalizing x with
  | nil => rfl
  | cons j stages ih =>
    obtain ⟨hj, hrest⟩ := List.forall_mem_cons.mp hstages
    rw [shuffleStages_cons, shuffleSource_cons, ih hrest]
    split_ifs
    · exact shuffleStage_getLsbD hW x (shuffleSource_lt_width hW hrest k hp) hj
    · rfl

/-! ### The two functions on operands cut from two ports -/

/-- The control is the same whether it is read from the port or from the operand cut from it. -/
theorem setWidth_toNat_mod_half_width (hW : W = 32 ∨ W = 64) (b : Word) :
    (b.setWidth W).toNat % (W / 2) = b.toNat % (W / 2) := by
  have hdvd : W / 2 ∣ 2 ^ W := by rcases hW with rfl | rfl <;> norm_num
  rw [BitVec.toNat_setWidth, Nat.mod_mod_of_dvd _ hdvd]

/-- The source position lies inside the word, so the cut of the data operand does not matter. -/
theorem shuffleStages_setWidth_getLsbD (hW : W = 32 ∨ W = 64) {stages : List Nat}
    (hstages : ∀ j ∈ stages, j + 1 < Nat.log2 W) (k : Nat) (a : Word) {p : Nat} (hp : p < W) :
    (shuffleStages stages k (a.setWidth W)).getLsbD p = a.getLsbD (shuffleSource stages k p) := by
  rw [shuffleStages_getLsbD hW hstages k _ hp, BitVec.getLsbD_setWidth,
    decide_eq_true (shuffleSource_lt_width hW hstages k hp), Bool.true_and]

/-- R82 by bits, at either width. -/
theorem shfl_setWidth_getLsbD (hW : W = 32 ∨ W = 64) (a b : Word) {p : Nat} (hp : p < W) :
    (shfl W (a.setWidth W) (b.setWidth W)).getLsbD p =
      a.getLsbD (shuffleSource (List.range (Nat.log2 W - 1)).reverse (b.toNat % (W / 2)) p) := by
  have hstages : ∀ j ∈ (List.range (Nat.log2 W - 1)).reverse, j + 1 < Nat.log2 W := fun j hj => by
    have := List.mem_range.mp (List.mem_reverse.mp hj)
    omega
  rw [shfl_eq_shuffleStages, setWidth_toNat_mod_half_width hW, shuffleStages_setWidth_getLsbD hW hstages _ _ hp]

/-- R83 by bits, at either width. -/
theorem unshfl_setWidth_getLsbD (hW : W = 32 ∨ W = 64) (a b : Word) {p : Nat} (hp : p < W) :
    (unshfl W (a.setWidth W) (b.setWidth W)).getLsbD p =
      a.getLsbD (shuffleSource (List.range (Nat.log2 W - 1)) (b.toNat % (W / 2)) p) := by
  have hstages : ∀ j ∈ List.range (Nat.log2 W - 1), j + 1 < Nat.log2 W := fun j hj => by
    have := List.mem_range.mp hj
    omega
  rw [unshfl_eq_shuffleStages, setWidth_toNat_mod_half_width hW, shuffleStages_setWidth_getLsbD hW hstages _ _ hp]

/-- Settles O37: both are the functions at `W = 32` on the low halves, widened; that width has the stages 0 to 3 and the
control mod 16. -/
theorem narrowShuffleByBits : Obligations.NarrowShuffleByBits := by
  intro s rd rs1 rs2 hx k
  have hup : List.range (Nat.log2 32 - 1) = [0, 1, 2, 3] := by decide
  constructor
  · refine completesWith_of_exec_require64 hx rfl (narrowBits_narrow2 fun p hp => ?_)
    rw [shfl_setWidth_getLsbD (.inl rfl) _ _ hp, hup]
    rfl
  · refine completesWith_of_exec_require64 hx rfl (narrowBits_narrow2 fun p hp => ?_)
    rw [unshfl_setWidth_getLsbD (.inl rfl) _ _ hp, hup]

end Sys2Proof.Machine
end

section
/-! The bit-group crossbar by bits (`44_crossbar.md` R90 to R93). -/

namespace Sys2Proof.Machine

open Claims

variable {W : Nat}

/-! ### Placing the groups -/

/-- The spec's bit formula in the model's terms: the position the group of bit `i` is read from, tested against `W` (R90). -/
theorem crossbarBit_eq_xpermSource (sz : Nat) (a b : BitVec W) (i : Nat) :
    crossbarBit sz a b i =
      (decide (xpermSource sz b (i / sz) < W) && a.getLsbD (xpermSource sz b (i / sz) + i % sz)) := by
  simp only [crossbarBit, xpermSource, BitVec.extractLsb'_toNat, Nat.shiftRight_eq_div_pow]

/-- A group of `sz` bits of `a` moved to group `n` stands there and nowhere else. -/
theorem placedGroup_getLsbD {sz : Nat} (hsz : 0 < sz) (a : BitVec W) (p n : Nat) {i : Nat} (hi : i < W) :
    ((a.extractLsb' p sz).setWidth W <<< (sz * n)).getLsbD i =
      (decide (i / sz = n) && a.getLsbD (p + i % sz)) := by
  have hdecomp := Nat.div_add_mod i sz
  have hrest := Nat.mod_lt i hsz
  rw [BitVec.getLsbD_shiftLeft, BitVec.getLsbD_setWidth, BitVec.getLsbD_extractLsb']
  obtain hlt | rfl | hgt := Nat.lt_trichotomy (i / sz) n
  · have hbelow : i < sz * n := by rwa [Nat.mul_comm, ← Nat.div_lt_iff_lt_mul hsz]
    simp [hbelow, hlt.ne]
  · have hoffset : i - sz * (i / sz) = i % sz := by omega
    have hstart : ¬ i < sz * (i / sz) := by omega
    simp [hi, hoffset, hstart, hrest, (Nat.mod_le i sz).trans_lt hi]
  · have habove : sz * n + sz ≤ i := by
      rwa [← Nat.mul_succ, Nat.mul_comm, ← Nat.le_div_iff_mul_le hsz]
    have hbeyond : ¬ i - sz * n < sz := by omega
    simp [hbeyond, hgt.ne']

/-- The value after the first `n` destination groups of the crossbar with groups of `sz` bits. -/
def crossbarGroups (sz : Nat) (a b : BitVec W) (n : Nat) : BitVec W :=
  (List.range n).foldl
    (fun r i =>
      if xpermSource sz b i < W then r ||| ((a.extractLsb' (xpermSource sz b i) sz).setWidth W <<< (sz * i)) else r) 0

theorem xperm_eq_crossbarGroups (g : Nat) (a b : BitVec W) :
    xperm g W a b = crossbarGroups (2 ^ g) a b (W / 2 ^ g) := rfl

theorem crossbarGroups_succ (sz : Nat) (a b : BitVec W) (n : Nat) :
    crossbarGroups sz a b (n + 1) =
      if xpermSource sz b n < W then
        crossbarGroups sz a b n ||| ((a.extractLsb' (xpermSource sz b n) sz).setWidth W <<< (sz * n))
      else crossbarGroups sz a b n := by
  simp [crossbarGroups, List.range_succ]

/-- After `n` groups the bits of those groups have the value of R90 and the others are zero. -/
theorem crossbarGroups_getLsbD {sz : Nat} (hsz : 0 < sz) (a b : BitVec W) (n : Nat) {i : Nat} (hi : i < W) :
    (crossbarGroups sz a b n).getLsbD i = (decide (i / sz < n) && crossbarBit sz a b i) := by
  induction n with
  | zero => simp [crossbarGroups]
  | succ n ih =>
    have hplaced := placedGroup_getLsbD hsz a (xpermSource sz b n) n hi
    rw [crossbarGroups_succ, apply_ite (BitVec.getLsbD · i), BitVec.getLsbD_or, ih, hplaced]
    obtain rfl | hne := eq_or_ne (i / sz) n
    · simp [crossbarBit_eq_xpermSource]
    · have hlt : i / sz < n + 1 ↔ i / sz < n := by omega
      simp [hne, hlt]

/-! ### The function at a width of the block -/

theorem two_pow_dvd_width (hW : W = 32 ∨ W = 64) {g : Nat} (hg : g ≤ 5) : 2 ^ g ∣ W := by
  have hword : 2 ^ 5 ∣ W := by rcases hW with rfl | rfl <;> norm_num
  exact (Nat.pow_dvd_pow 2 hg).trans hword

/-- R90 by bits, at either width: the groups fill the word, so every bit belongs to one that is placed. -/
theorem xperm_getLsbD (hW : W = 32 ∨ W = 64) {g : Nat} (hg : g ≤ 5) (a b : BitVec W) {i : Nat} (hi : i < W) :
    (xperm g W a b).getLsbD i = crossbarBit (2 ^ g) a b i := by
  have hgroup : i / 2 ^ g < W / 2 ^ g := Nat.div_lt_div_of_lt_of_dvd (two_pow_dvd_width hW hg) hi
  rw [xperm_eq_crossbarGroups, crossbarGroups_getLsbD (Nat.two_pow_pos g) a b _ hi, decide_eq_true hgroup,
    Bool.true_and]

/-- An operation that writes the native crossbar with groups of `2^g` bits has the bits of R90. -/
theorem completesWith_native_xperm {i : Instr} {s : State} {g : Nat} (hg : g ≤ 5) {va vb : Word}
    (h : exec i s = completeCommand i.rd (native2 s.cfg.xlen (xperm g) va vb) s) :
    CompletesWith i s fun v =>
      NativeBits s.cfg.xlen v (crossbarBit (2 ^ g) (va.setWidth s.cfg.xlen.bits) (vb.setWidth s.cfg.xlen.bits)) := by
  refine completesWith_of_exec h ?_
  rw [toXlen_native2]
  exact nativeBits_native2 fun _ hi => xperm_getLsbD (Xlen.bits_cases _) hg _ _ hi

/-! ### The command words -/

/-- The command word of a native operation of two operands: two source fields, the destination and the code (R34, R35). -/
theorem encode_toNat_of_native_two_sources {i : Instr} {rs1 rs2 : Reg} (hsources : i.sources = [rs1, rs2])
    (hnative : i.isNarrow = false) :
    (encode i).toNat = rs2.val * 2 ^ 22 + rs1.val * 2 ^ 17 + i.rd.val * 2 ^ 12 + functionCode i := by
  simpa [hsources, hnative] using commandWordValue i

/-- Settles O40: the three are the native crossbar with groups of `2^2`, `2^3` and `2^4` bits. -/
theorem crossbarByBits : Obligations.CrossbarByBits := by
  intro s rd rs1 rs2
  exact ⟨encode_toNat_of_native_two_sources rfl rfl, encode_toNat_of_native_two_sources rfl rfl,
    encode_toNat_of_native_two_sources rfl rfl,
    completesWith_native_xperm (g := 2) (by omega) rfl, completesWith_native_xperm (g := 3) (by omega) rfl,
    completesWith_native_xperm (g := 4) (by omega) rfl⟩

end Sys2Proof.Machine
end

section
/-! The field place by bits and its laws (`45_fieldplace.md` R100 to R104). -/

namespace Sys2Proof.Machine

open Claims

variable {W lsb : Nat} {a b : BitVec W}

/-! ### The control word and its fields -/

theorem bfpControl_eq_fieldControl (b : BitVec W) : bfpControl b = fieldControl W b.toNat := by
  simp only [bfpControl, fieldControl, Nat.shiftRight_eq_div_pow]

theorem bfpOffset_eq_fieldOffset (b : BitVec W) : bfpOffset b = fieldOffset W b.toNat := by
  rw [bfpOffset, fieldOffset, bfpControl_eq_fieldControl]

theorem bfpLength_eq_fieldLength (lsb : Nat) (b : BitVec W) : bfpLength lsb b = fieldLength lsb W b.toNat := by
  simp only [bfpLength, fieldLength, bfpControl_eq_fieldControl, Nat.shiftRight_eq_div_pow]

/-- R101: a field is at most half a word long. -/
theorem fieldLength_le_half (hW : W = 32 ∨ W = 64) (lsb n : Nat) : fieldLength lsb W n ≤ W / 2 := by
  unfold fieldLength
  split_ifs
  · exact le_rfl
  · exact (Nat.mod_lt _ (by omega)).le

/-- R103: the raw control word of a 32-bit operand has 16 bits, so it carries no tag. -/
theorem fieldControl_32_of_lt {n : Nat} (hn : n < 2 ^ 32) : fieldControl 32 n = n / 2 ^ 16 := by
  unfold fieldControl
  rw [if_neg (by omega)]

/-! ### The bits of the result -/

/-- The mask has ones exactly at the positions of the field (R102). -/
theorem bfpMask_getLsbD (lsb : Nat) (b : BitVec W) {i : Nat} (hi : i < W) :
    (bfpMask lsb b).getLsbD i =
      decide (fieldOffset W b.toNat ≤ i ∧ i < fieldOffset W b.toNat + fieldLength lsb W b.toNat) := by
  rw [bfpMask, bfpOffset_eq_fieldOffset, bfpLength_eq_fieldLength, BitVec.getLsbD_shiftLeft, BitVec.getLsbD_ofNat,
    Nat.testBit_two_pow_sub_one, Bool.eq_iff_iff]
  simp only [Bool.and_eq_true, Bool.not_eq_true', decide_eq_true_eq, decide_eq_false_iff_not]
  omega

/-- R102 by bits: where the mask is one the shifted `b` shows, elsewhere `a`. -/
theorem bfp_getLsbD (lsb : Nat) (a b : BitVec W) {i : Nat} (hi : i < W) :
    (bfp lsb W a b).getLsbD i = fieldPlaceBit lsb a b i := by
  rw [bfp, BitVec.getLsbD_or, BitVec.getLsbD_and, BitVec.getLsbD_and, BitVec.getLsbD_not, bfpMask_getLsbD lsb b hi,
    bfpOffset_eq_fieldOffset, BitVec.getLsbD_shiftLeft, fieldPlaceBit]
  split_ifs with hin <;> simp [hin, hi]

/-- Inside the field the result has the low bits of `b`, from bit 0 on. -/
theorem bfp_getLsbD_of_inside {i : Nat} (hi : i < min (fieldOffset W b.toNat + fieldLength lsb W b.toNat) W)
    (hoff : fieldOffset W b.toNat ≤ i) : (bfp lsb W a b).getLsbD i = b.getLsbD (i - fieldOffset W b.toNat) := by
  obtain ⟨hend, hiW⟩ := lt_min_iff.mp hi
  rw [bfp_getLsbD lsb a b hiW, fieldPlaceBit, if_pos ⟨hoff, hend⟩]

/-- Outside the field, and beyond the word, the result has the bits of `a`. -/
theorem bfp_getLsbD_of_outside {i : Nat}
    (hout : ¬ (fieldOffset W b.toNat ≤ i ∧ i < min (fieldOffset W b.toNat + fieldLength lsb W b.toNat) W)) :
    (bfp lsb W a b).getLsbD i = a.getLsbD i := by
  by_cases hi : i < W
  · rw [bfp_getLsbD lsb a b hi, fieldPlaceBit, if_neg fun ⟨hoff, hend⟩ => hout ⟨hoff, lt_min hend hi⟩]
  · rw [BitVec.getLsbD_of_ge _ i (by omega), BitVec.getLsbD_of_ge a i (by omega)]

/-- R104 (iii): a bit is inside the field both times, or it is twice the one of the first operand. -/
theorem bfp_bfp (lsb : Nat) (a b : BitVec W) : bfp lsb W (bfp lsb W a b) b = bfp lsb W a b := by
  refine BitVec.eq_of_getLsbD_eq fun i _ => ?_
  by_cases hin : fieldOffset W b.toNat ≤ i ∧ i < min (fieldOffset W b.toNat + fieldLength lsb W b.toNat) W
  · obtain ⟨hoff, hend⟩ := hin
    rw [bfp_getLsbD_of_inside hend hoff, bfp_getLsbD_of_inside hend hoff]
  · exact bfp_getLsbD_of_outside hin

/-! ### The obligations -/

/-- Settles O43: the native form is the function at the build's width, with the length field where the build has it. -/
theorem bfpByBits : Obligations.BfpByBits := by
  intro s rd rs1 rs2
  refine ⟨encode_toNat_of_native_two_sources rfl rfl, completesWith_of_exec rfl ?_⟩
  rw [toXlen_native2]
  exact nativeBits_native2 fun _ hi => bfp_getLsbD s.cfg.bfpLenLsbNative _ _ hi

/-- Settles O44: the function at `W = 32` on the low halves, widened; the cut of `RS2` to 32 bits leaves no tag. -/
theorem bfpwByBits : Obligations.BfpwByBits := by
  intro s rd rs1 rs2 hx
  constructor
  · exact completesWith_of_exec_require64 hx rfl (narrowBits_narrow2 fun _ hi => bfp_getLsbD _ _ _ hi)
  · rw [fieldControl_32_of_lt (Nat.mod_lt _ (Nat.two_pow_pos 32)), ← Nat.mod_mul_right_div_self, ← Nat.pow_add]

/-- Settles O45: the bits inside the field are those of `b` alone, from its low half; the others
are those of `a`. -/
theorem fieldPlaceLaws : Obligations.FieldPlaceLaws := by
  intro W hW lsb a a' b off len
  refine ⟨fun i hdiff => ?_, fun i hi hoff => ⟨bfp_getLsbD_of_inside hi hoff, ?_⟩, fun i hi hoff => ?_,
    bfp_bfp lsb a b⟩
  · by_contra hout
    rw [BitVec.getLsbD_xor, bfp_getLsbD_of_outside hout, Bool.xor_self] at hdiff
    cases hdiff
  · have hlen : len ≤ W / 2 := fieldLength_le_half hW lsb b.toNat
    omega
  · rw [bfp_getLsbD_of_inside hi hoff, bfp_getLsbD_of_inside hi hoff]

end Sys2Proof.Machine
end

section
/-! The mask-directed gather and scatter by bits (`46_compress.md` R110 to R112). -/

namespace Sys2Proof.Machine

open Claims

variable {W : Nat}

/-! ### Counting the mask bits below a position -/

@[simp] theorem maskRank_zero (m : BitVec W) : maskRank m 0 = 0 := rfl

theorem maskRank_succ (m : BitVec W) (n : Nat) : maskRank m (n + 1) = maskRank m n + (m.getLsbD n).toNat := by
  rw [maskRank, maskRank, List.range_succ, List.countP_append, List.countP_singleton, Bool.toNat, Bool.cond_eq_ite]

theorem maskRank_le (m : BitVec W) (n : Nat) : maskRank m n ≤ n := by
  simpa [maskRank] using List.countP_le_length (p := fun k => m.getLsbD k) (l := List.range n)

/-! ### One position of the two walks -/

/-- `r` with bit `p` set when `c` holds: what one position of either walk does to the result. -/
def setBitIf (c : Bool) (r : BitVec W) (p : Nat) : BitVec W := if c then r ||| (1#W <<< p) else r

theorem setBitIf_getLsbD (c : Bool) (r : BitVec W) (p : Nat) {i : Nat} (hi : i < W) :
    (setBitIf c r p).getLsbD i = (r.getLsbD i || (c && p == i)) := by
  cases c with
  | false => simp [setBitIf]
  | true =>
    have hpow : (1#W <<< p).getLsbD i = (p == i) := by
      rw [← BitVec.twoPow_eq, BitVec.getLsbD_twoPow]
      obtain rfl | hne := eq_or_ne p i
      · simp [hi]
      · simp [hne]
    rw [setBitIf, if_pos rfl, BitVec.getLsbD_or, hpow, Bool.true_and]

theorem gatherBit_eq (a m : BitVec W) (acc : BitVec W × Nat) (i : Nat) :
    gatherBit a m acc i =
      (setBitIf (m.getLsbD i && a.getLsbD i) acc.1 acc.2, acc.2 + (m.getLsbD i).toNat) := by
  cases hm : m.getLsbD i <;> simp [gatherBit, setBitIf, hm]

theorem scatterBit_eq (a m : BitVec W) (acc : BitVec W × Nat) (i : Nat) :
    scatterBit a m acc i =
      (setBitIf (m.getLsbD i && a.getLsbD acc.2) acc.1 i, acc.2 + (m.getLsbD i).toNat) := by
  cases hm : m.getLsbD i <;> simp [scatterBit, setBitIf, hm]

/-! ### The gather -/

/-- The result and the counter of `bcompress` after the first `n` positions. -/
def gatherWalk (a m : BitVec W) (n : Nat) : BitVec W × Nat := (List.range n).foldl (gatherBit a m) (0, 0)

theorem bcompress_eq_gatherWalk (a m : BitVec W) : bcompress W a m = (gatherWalk a m W).1 := rfl

@[simp] theorem gatherWalk_zero (a m : BitVec W) : gatherWalk a m 0 = (0, 0) := rfl

theorem gatherWalk_succ (a m : BitVec W) (n : Nat) :
    gatherWalk a m (n + 1) = gatherBit a m (gatherWalk a m n) n := by
  simp [gatherWalk, List.range_succ]

/-- The counter is the number of mask bits met (R110). -/
theorem gatherWalk_snd (a m : BitVec W) (n : Nat) : (gatherWalk a m n).2 = maskRank m n := by
  induction n with
  | zero => rfl
  | succ n ih => rw [gatherWalk_succ, gatherBit_eq, ih, maskRank_succ]

/-- After `n` positions, result bit `t` is the data bit at the `t`-th set mask bit among them. -/
theorem gatherWalk_fst_getLsbD (a m : BitVec W) (n : Nat) {t : Nat} (ht : t < W) :
    (gatherWalk a m n).1.getLsbD t =
      (List.range n).any fun i => m.getLsbD i && maskRank m i == t && a.getLsbD i := by
  induction n with
  | zero => simp
  | succ n ih =>
    rw [gatherWalk_succ, gatherBit_eq, setBitIf_getLsbD _ _ _ ht, ih, gatherWalk_snd, List.range_succ, List.any_append,
      List.any_cons, List.any_nil, Bool.or_false, Bool.and_right_comm]

/-- R111 by bits. -/
theorem bcompress_getLsbD (a m : BitVec W) {t : Nat} (ht : t < W) :
    (bcompress W a m).getLsbD t = (List.range W).any fun i => m.getLsbD i && maskRank m i == t && a.getLsbD i :=
  gatherWalk_fst_getLsbD a m W ht

/-! ### The scatter -/

/-- The result and the counter of `bdecompress` after the first `n` positions. -/
def scatterWalk (a m : BitVec W) (n : Nat) : BitVec W × Nat := (List.range n).foldl (scatterBit a m) (0, 0)

theorem bdecompress_eq_scatterWalk (a m : BitVec W) : bdecompress W a m = (scatterWalk a m W).1 := rfl

@[simp] theorem scatterWalk_zero (a m : BitVec W) : scatterWalk a m 0 = (0, 0) := rfl

theorem scatterWalk_succ (a m : BitVec W) (n : Nat) :
    scatterWalk a m (n + 1) = scatterBit a m (scatterWalk a m n) n := by
  simp [scatterWalk, List.range_succ]

/-- The counter is the number of mask bits met (R110). -/
theorem scatterWalk_snd (a m : BitVec W) (n : Nat) : (scatterWalk a m n).2 = maskRank m n := by
  induction n with
  | zero => rfl
  | succ n ih => rw [scatterWalk_succ, scatterBit_eq, ih, maskRank_succ]

/-- After `n` positions, the result bits below `n` have their value and the others are zero. -/
theorem scatterWalk_fst_getLsbD (a m : BitVec W) (n : Nat) {i : Nat} (hi : i < W) :
    (scatterWalk a m n).1.getLsbD i = (decide (i < n) && (m.getLsbD i && a.getLsbD (maskRank m i))) := by
  induction n with
  | zero => simp
  | succ n ih =>
    rw [scatterWalk_succ, scatterBit_eq, setBitIf_getLsbD _ _ _ hi, ih, scatterWalk_snd]
    obtain rfl | hne := eq_or_ne n i
    · simp
    · have hlt : i < n + 1 ↔ i < n := by omega
      simp [hne, hlt]

/-- R112 by bits. -/
theorem bdecompress_getLsbD (a m : BitVec W) {i : Nat} (hi : i < W) :
    (bdecompress W a m).getLsbD i = (m.getLsbD i && a.getLsbD (maskRank m i)) := by
  rw [bdecompress_eq_scatterWalk, scatterWalk_fst_getLsbD a m W hi, decide_eq_true hi, Bool.true_and]

/-! ### The two functions on a data operand cut from a port -/

/-- Every position that the mask selects lies inside the word, so the cut of the data operand does not matter. -/
theorem bcompress_setWidth_getLsbD (a : Word) (m : BitVec W) {t : Nat} (ht : t < W) :
    (bcompress W (a.setWidth W) m).getLsbD t =
      (List.range W).any fun i => m.getLsbD i && maskRank m i == t && a.getLsbD i := by
  rw [bcompress_getLsbD _ m ht]
  refine List.any_congr rfl fun i => ?_
  by_cases hi : i < W
  · simp [hi]
  · simp [BitVec.getLsbD_of_ge m i (by omega)]

/-- The rank of a position is at most the position, so the cut of the data operand does not matter. -/
theorem bdecompress_setWidth_getLsbD (a : Word) (m : BitVec W) {i : Nat} (hi : i < W) :
    (bdecompress W (a.setWidth W) m).getLsbD i = (m.getLsbD i && a.getLsbD (maskRank m i)) := by
  have hrank : maskRank m i < W := (maskRank_le m i).trans_lt hi
  rw [bdecompress_getLsbD _ m hi, BitVec.getLsbD_setWidth, decide_eq_true hrank, Bool.true_and]

/-! ### The obligations -/

/-- Settles O46: the counter of the walk is the rank of the position in the mask. -/
theorem bcompressByBits : Obligations.BcompressByBits := by
  intro s rd rs1 rs2
  refine ⟨encode_toNat_of_native_two_sources rfl rfl, completesWith_of_exec rfl ?_⟩
  rw [toXlen_native2]
  exact nativeBits_native2 fun _ ht => bcompress_setWidth_getLsbD _ _ ht

/-- Settles O47: each position of the walk sets its own result bit, from the data bit that the counter names. -/
theorem bdecompressByBits : Obligations.BdecompressByBits := by
  intro s rd rs1 rs2
  refine ⟨encode_toNat_of_native_two_sources rfl rfl, completesWith_of_exec rfl ?_⟩
  rw [toXlen_native2]
  exact nativeBits_native2 fun _ hi => bdecompress_setWidth_getLsbD _ _ hi

end Sys2Proof.Machine
end

section
/-! The whole run at its borders: registers, launch, reset, the reserved word and the ended run (`10_state.md` R17 to R19,
`60_exceptions.md` R154, R155, `70_reset_and_hazards.md` R171, R172). -/

namespace Sys2Proof.Machine

/-- Settles O5: the words are closed terms, and the decoder runs on them. -/
theorem listedWordsDecode : Obligations.ListedWordsDecode := by
  unfold Obligations.ListedWordsDecode
  decide

/-- Settles O19: the value read is the one written, cut to the `XLEN` bits that it fits in. -/
theorem everyRegisterHoldsWhatIsWritten : Obligations.EveryRegisterHoldsWhatIsWritten := by
  intro s r v
  refine ⟨fun hfit => ?_, fun r' hne => State.readReg_writeReg_ne s v hne⟩
  rw [State.readReg_writeReg_same, toXlen_of_lt hfit]

/-! ### Launch and reset -/

/-- A launch is running at the first word, which is inside the program or at its end. -/
theorem inv_launch {cfg : Config} {program : List CommandWord} {regs : RegFile}
    (hregs : ∀ r : Reg, (regs[r]).toNat < 2 ^ cfg.xlen.bits) : (State.launch cfg program regs).Inv where
  regsFit := hregs
  statusFits := Nat.zero_le _

/-- Settles O13: `State.reset` is a launch too, and its zero registers fit in any width. -/
theorem launchMeetsInvariant : Obligations.LaunchMeetsInvariant := by
  refine ⟨inv_launch fun r => ?_, fun _ _ _ hregs => inv_launch hregs⟩
  simp

@[simp] theorem resetSequencer_status (regs : RegFile) (s : State) : (resetSequencer regs s).status = .running := rfl

@[simp] theorem resetSequencer_readReg (regs : RegFile) (s : State) (r : Reg) :
    (resetSequencer regs s).readReg r = regs[r] := rfl

/-- Settles O11: reset sets `pc` to 0, so the fetch reads the head of the program or finds the empty program at its end. -/
theorem resetRestartsTheProgram : Obligations.ResetRestartsTheProgram := by
  intro regs s t
  refine ⟨rfl, rfl, resetSequencer_readReg regs s, rfl, rfl, fun hempty => ?_, fun w rest hprogram => ?_⟩
  · simp [State.fetch, t, hempty]
  · exact fetch_of_getElem? (by simp [t, hprogram])

/-! ### The end of a run -/

/-- A sequencer that is not running has no next state (R155, `10_state.md` R19). -/
theorem step_ne_next {s : State} (hend : s.status ≠ .running) (t : State) : step s ≠ .next t :=
  fun h => hend (step_cases h).1

/-- Settles O8: it is the step's equation for a reserved word, and the state that it leaves is not running. -/
theorem reservedWordFaultsPrecisely : Obligations.ReservedWordFaultsPrecisely :=
  fun _ _ hrun hw hres => ⟨step_of_isReserved hrun hw hres, rfl, step_ne_next Status.noConfusion⟩

/-- Settles O10: a step needs the status running, and reset sets it. -/
theorem endedRunsAreStuckUntilReset : Obligations.EndedRunsAreStuckUntilReset :=
  fun s hend => ⟨step_ne_next hend, fun regs => resetSequencer_status regs s⟩

end Sys2Proof.Machine
end

section
/-! What the result of an operation depends on: the block's ports, its source registers, and for a narrow operation their
low halves (`00_scope.md` R5, R7, `30_encoding.md` R41, R42, `60_exceptions.md` R150). -/

namespace Sys2Proof.Machine

/-! ### Every operation of the build completes -/

/-- Settles O17: the meaning of an operation of the build is a completed command, whatever the operands are. -/
theorem everyOperationCompletes : Obligations.EveryOperationCompletes := by
  intro i s h
  obtain ⟨v, hv⟩ := exec_of_wellFormed h
  exact completesWith_of_exec hv trivial

/-- Settles O23: the block's result is the value that the command writes. -/
theorem sequencerWritesTheBlocksResult : Obligations.SequencerWritesTheBlocksResult :=
  fun _ _ d2 d3 h => completesWith_blockRes h d2 d3

/-! ### The values on the ports -/

/-- What the port of source number `k` of the operation carries in the state, 0 where the operation has no such source. -/
def State.sourceValue (s : State) (i : Instr) (k : Nat) : Word := (i.sources[k]?).elim 0 s.readReg

/-- Whatever `f` keeps of the values of two states' source registers, it keeps of the ports. -/
theorem map_sourceValue_congr {α : Type} {f : Word → α} {i : Instr} {s s' : State}
    (h : ∀ r ∈ i.sources, f (s'.readReg r) = f (s.readReg r)) (k : Nat) :
    f (s'.sourceValue i k) = f (s.sourceValue i k) := by
  unfold State.sourceValue
  cases hk : i.sources[k]? with
  | none => rfl
  | some r => exact h r (List.mem_of_getElem? hk)

/-- Two states of one build on whose ports the block answers the same complete an operation with the same value. -/
theorem completesWith_same_of_blockRes_eq {i : Instr} {s s' : State} (h : wellFormed s.cfg.xlen i = true)
    (hcfg : s'.cfg = s.cfg)
    (hres : blockRes s.cfg ((encode i).extractLsb' 0 6) (s'.sourceValue i 0) (s'.sourceValue i 1) (s'.sourceValue i 2) =
      blockRes s.cfg ((encode i).extractLsb' 0 6) (s.sourceValue i 0) (s.sourceValue i 1) (s.sourceValue i 2)) :
    ∃ v, CompletesWith i s (· = v) ∧ CompletesWith i s' (· = v) := by
  obtain ⟨t, hexec, hwrites, hv⟩ := completesWith_blockRes h 0 0
  obtain ⟨t', hexec', hwrites', hv'⟩ := completesWith_blockRes (s := s') (hcfg ▸ h) 0 0
  rw [hcfg] at hv'
  have hsame : t'.readReg i.rd = t.readReg i.rd := Option.some.inj (hv'.symm.trans (hres.trans hv))
  exact ⟨_, ⟨t, hexec, hwrites, rfl⟩, ⟨t', hexec', hwrites', hsame⟩⟩

/-- Settles O20: states that agree on the source registers put the same values on the block's ports. -/
theorem resultDependsOnSourcesOnly : Obligations.ResultDependsOnSourcesOnly := by
  intro i s s' h hcfg hsources
  have hport : ∀ k, s'.sourceValue i k = s.sourceValue i k := map_sourceValue_congr (f := id) hsources
  exact completesWith_same_of_blockRes_eq h hcfg (by simp only [hport])

/-! ### Narrow operations -/

section low

variable {va vb vc va' vb' vc' : Word} (ha : va'.setWidth 32 = va.setWidth 32) (hb : vb'.setWidth 32 = vb.setWidth 32)

include ha hb

theorem narrow2_congr_low (e : NarrowExt) (f : (W : Nat) → BitVec W → BitVec W → BitVec W) :
    narrow2 e f va' vb' = narrow2 e f va vb := by
  rw [narrow2, truncOperand, truncOperand, ha, hb]
  rfl

theorem narrow3_congr_low (hc : vc'.setWidth 32 = vc.setWidth 32) (e : NarrowExt)
    (f : (W : Nat) → BitVec W → BitVec W → BitVec W → BitVec W) : narrow3 e f va' vb' vc' = narrow3 e f va vb vc := by
  rw [narrow3, truncOperand, truncOperand, truncOperand, ha, hb, hc]
  rfl

/-- On the select code of a narrow operation the block reads the low halves of its ports only (`00_scope.md` R7). -/
theorem blockFunction_congr_low (hc : vc'.setWidth 32 = vc.setWidth 32) {i : Instr} (hn : i.isNarrow = true)
    (c : Config) :
    blockFunction c (selectCode i.isNarrow i.funcBits) va' vb' vc' =
      blockFunction c (selectCode i.isNarrow i.funcBits) va vb vc := by
  unfold blockFunction
  rw [selectCode_toNat, Instr.funcBits_toNat]
  cases i <;> simp only [Instr.isNarrow, Bool.false_eq_true] at hn
  case grevw => exact congrArg some (narrow2_congr_low ha hb _ grev)
  case gorcw => exact congrArg some (narrow2_congr_low ha hb _ gorc)
  case fslw => exact congrArg some (narrow3_congr_low ha hb hc _ fsl)
  case fsrw => exact congrArg some (narrow3_congr_low ha hb hc _ fsr)
  case shflw => exact congrArg some (narrow2_congr_low ha hb _ shfl)
  case unshflw => exact congrArg some (narrow2_congr_low ha hb _ unshfl)
  case bfpw => exact congrArg some (narrow2_congr_low ha hb _ (bfp c.bfpLenLsb32))

end low

/-- Settles O21: states that agree in the low halves of the source registers agree in the low halves of the ports. -/
theorem narrowResultIgnoresUpperHalves : Obligations.NarrowResultIgnoresUpperHalves := by
  intro i s s' hn hx hcfg hlow
  have hport := map_sourceValue_congr (f := BitVec.setWidth 32) hlow
  refine completesWith_same_of_blockRes_eq (by rw [hx, wellFormed_x64]) hcfg ?_
  rw [extractLsb'_select_encode, blockRes, blockRes, blockFunction_congr_low (hport 0) (hport 1) (hport 2) hn]

end Sys2Proof.Machine
end

section
/-! Results by bits that rest on the networks' closed forms: the permutation networks, the funnel shift, the shuffles, the
word crossbar and the conditional select (`40_bitpermute.md` R53, R54, `42_funnel_shift.md` R71, R72, `43_shuffle.md` R82,
R83, `44_crossbar.md` R94, `49_select.md` R140). -/

namespace Sys2Proof.Machine

open Claims

/-! ### How a native operation is proved by bits -/

section native

variable {i : Instr} {s : State} {va vb vc : Word} {bit : Nat → Bool}

/-- An operation that writes a native form of two operands has the bits of the function at the build's width. -/
theorem completesWith_nativeBits2 {f : (W : Nat) → BitVec W → BitVec W → BitVec W}
    (h : exec i s = completeCommand i.rd (native2 s.cfg.xlen f va vb) s)
    (hbits : ∀ n < s.cfg.xlen.bits,
      (f s.cfg.xlen.bits (va.setWidth s.cfg.xlen.bits) (vb.setWidth s.cfg.xlen.bits)).getLsbD n = bit n) :
    CompletesWith i s fun v => NativeBits s.cfg.xlen v bit :=
  completesWith_of_exec h (by rw [toXlen_native2]; exact nativeBits_native2 hbits)

/-- The same for three operands. -/
theorem completesWith_nativeBits3 {f : (W : Nat) → BitVec W → BitVec W → BitVec W → BitVec W}
    (h : exec i s = completeCommand i.rd (native3 s.cfg.xlen f va vb vc) s)
    (hbits : ∀ n < s.cfg.xlen.bits,
      (f s.cfg.xlen.bits (va.setWidth s.cfg.xlen.bits) (vb.setWidth s.cfg.xlen.bits)
        (vc.setWidth s.cfg.xlen.bits)).getLsbD n = bit n) :
    CompletesWith i s fun v => NativeBits s.cfg.xlen v bit :=
  completesWith_of_exec h (by rw [toXlen_native3]; exact nativeBits_native3 hbits)

end native

/-! ### Permutation networks -/

/-- Settles O26: the narrow form is the network at `W = 32`, widened. -/
theorem grevwByBits : Obligations.GrevwByBits := by
  intro s rd rs1 rs2 hx
  exact completesWith_of_exec_require64 hx rfl
    (narrowBits_narrow2 fun i hi => grev_setWidth_getLsbD (.inl rfl) _ _ hi)

/-- Settles O27: the native form is the network at the build's width. -/
theorem gorcByBits : Obligations.GorcByBits :=
  fun _ _ _ _ => completesWith_nativeBits2 rfl fun _ hi => gorc_setWidth_getLsbD (Xlen.bits_cases _) _ _ hi

/-! ### Funnel shift -/

/-- Settles O33: both are rotations of the pair at the build's width; the amount mod `2W` is in the operand. -/
theorem funnelShiftByBits : Obligations.FunnelShiftByBits := by
  intro s rd rs1 rs2 rs3 W ac sh
  have hamount : ((s.readReg rs2).setWidth W).toNat % (2 * W) = sh :=
    setWidth_toNat_mod_two_mul_width (Xlen.bits_cases _) _
  constructor
  · refine completesWith_nativeBits3 rfl fun i hi => ?_
    rw [fsl_getLsbD _ _ _ hi, hamount]
  · refine completesWith_nativeBits3 rfl fun i hi => ?_
    rw [fsr_getLsbD _ _ _ hi, hamount]

/-! ### Shuffles -/

/-- Settles O36: the stages of a build are those below `W/2`, upwards for `unshfl` and downwards for `shfl`. -/
theorem shuffleByBits : Obligations.ShuffleByBits := by
  intro s rd rs1 rs2 W up k
  have hup : List.range (Nat.log2 W - 1) = up := by
    simp only [W, up]
    cases s.cfg.xlen <;> decide
  constructor
  · refine completesWith_nativeBits2 rfl fun p hp => ?_
    rw [shfl_setWidth_getLsbD (Xlen.bits_cases _) _ _ hp, hup]
  · refine completesWith_nativeBits2 rfl fun p hp => ?_
    rw [unshfl_setWidth_getLsbD (Xlen.bits_cases _) _ _ hp, hup]

/-! ### Operations that only a 64-bit build has -/

/-- In a 64-bit build the `NativeBits` of a word are its bits. -/
theorem nativeBits_x64 {v : Word} {bit : Nat → Bool} (h : ∀ i < 64, v.getLsbD i = bit i) : NativeBits .x64 v bit := by
  simpa [extendNative] using nativeBits_extendNative .x64 v bit h

/-- Settles O41: the word crossbar is the crossbar with groups of `2^5` bits. -/
theorem wordCrossbarByBits : Obligations.WordCrossbarByBits := by
  intro s rd rs1 rs2 hx
  exact completesWith_of_exec_require64 hx rfl
    (nativeBits_x64 fun i hi => xperm_getLsbD (.inr rfl) (g := 5) le_rfl _ _ hi)

/-! ### Conditional select -/

/-- R140 on the ports: the condition is all of the second operand, and the word chosen is cut to the build's width. -/
theorem native3_cmov (x : Xlen) (a b c : Word) : native3 x cmov a b c = toXlen x (if toXlen x b ≠ 0 then a else c) := by
  have hzero : b.setWidth x.bits = 0 ↔ toXlen x b = 0 := by
    rw [← BitVec.toNat_inj, ← BitVec.toNat_inj, toXlen_toNat, BitVec.toNat_setWidth]
    simp
  unfold native3 cmov truncOperand
  simp only [ne_eq, hzero]
  split_ifs <;> rfl

/-- Settles O56: the word is that of O4; cut to `XLEN` bits, a word is zero exactly when its remainder is. -/
theorem cmovSelects : Obligations.CmovSelects := by
  intro s rd rs1 rs2 rs3
  constructor
  · simpa [Instr.sources, Instr.rd, Instr.isNarrow, functionCode] using commandWordValue (.cmov rd rs1 rs2 rs3)
  · refine completesWith_of_exec rfl ?_
    have hzero : toXlen s.cfg.xlen (s.readReg rs2) ≠ 0 ↔ (s.readReg rs2).toNat % 2 ^ s.cfg.xlen.bits ≠ 0 := by
      rw [← toXlen_toNat, ne_eq, ne_eq, ← BitVec.toNat_inj]
      simp
    rw [toXlen_native3, native3_cmov, toXlen_toNat, apply_ite BitVec.toNat]
    simp only [hzero]

end Sys2Proof.Machine
end

section
/-! Functions that only move bits: each result bit is zero or a copy of one fixed operand bit. Such a function commutes with
every bitwise operation, and it keeps the number of set bits when its movement is an involution of the positions. -/

namespace Sys2Proof.Machine

variable {W : Nat}

/-! ### Fixed wirings -/

/-- Every result bit of `f` is constantly zero or a copy of one bit of the operand, the same for all operands. -/
def IsWiring (f : BitVec W → BitVec W) : Prop :=
  ∀ i < W, (∀ x, (f x).getLsbD i = false) ∨ ∃ j, ∀ x, (f x).getLsbD i = x.getLsbD j

theorem isWiring_of_source {f : BitVec W → BitVec W} {source : Nat → Nat}
    (h : ∀ x, ∀ i < W, (f x).getLsbD i = x.getLsbD (source i)) : IsWiring f :=
  fun i hi => .inr ⟨source i, fun x => h x i hi⟩

/-- A wiring commutes with every bitwise operation that makes no one out of zeros. -/
theorem IsWiring.map_bitwise {f : BitVec W → BitVec W} (hf : IsWiring f) {op : BitVec W → BitVec W → BitVec W}
    {bop : Bool → Bool → Bool} (hop : ∀ x y i, (op x y).getLsbD i = bop (x.getLsbD i) (y.getLsbD i))
    (hzero : bop false false = false) (x y : BitVec W) : f (op x y) = op (f x) (f y) := by
  refine BitVec.eq_of_getLsbD_eq fun i hi => ?_
  rw [hop]
  obtain hz | ⟨j, hj⟩ := hf i hi
  · rw [hz, hz, hz, hzero]
  · rw [hj, hj, hj, hop]

section bitwise

variable {f : BitVec W → BitVec W} (hf : IsWiring f) (x y : BitVec W)

include hf

theorem IsWiring.map_or : f (x ||| y) = f x ||| f y := hf.map_bitwise (fun _ _ _ => BitVec.getLsbD_or) rfl x y

theorem IsWiring.map_and : f (x &&& y) = f x &&& f y := hf.map_bitwise (fun _ _ _ => BitVec.getLsbD_and) rfl x y

theorem IsWiring.isXorLinear : IsXorLinear f := hf.map_bitwise (fun _ _ _ => BitVec.getLsbD_xor) rfl

end bitwise

/-! ### Involutions of the positions -/

/-- Counting positions of a word does not notice an involution of them. -/
theorem countP_range_involution {n : Nat} {σ : Nat → Nat} (hlt : ∀ i < n, σ i < n) (hinv : ∀ i < n, σ (σ i) = i)
    (p : Nat → Bool) : ((List.range n).countP fun i => p (σ i)) = (List.range n).countP p := by
  have hnodup : ((List.range n).map σ).Nodup :=
    List.nodup_range.map_on fun i hi j hj h => by
      rw [← hinv i (List.mem_range.mp hi), h, hinv j (List.mem_range.mp hj)]
  have hperm : ((List.range n).map σ).Perm (List.range n) := by
    refine (List.perm_ext_iff_of_nodup hnodup List.nodup_range).mpr fun i => ?_
    simp only [List.mem_map, List.mem_range]
    exact ⟨fun ⟨j, hj, h⟩ => h ▸ hlt j hj, fun hi => ⟨σ i, hlt i hi, hinv i hi⟩⟩
  exact List.countP_map.symm.trans (hperm.countP_eq p)

/-- A value whose bits are another's, moved by an involution, has as many set bits. -/
theorem popcount_of_involution {σ : Nat → Nat} (hlt : ∀ i < W, σ i < W) (hinv : ∀ i < W, σ (σ i) = i) {x y : BitVec W}
    (h : ∀ i < W, y.getLsbD i = x.getLsbD (σ i)) : popcount y = popcount x := by
  have hbits : popcount y = (List.range W).countP fun i => x.getLsbD (σ i) :=
    List.countP_congr fun i hi => by rw [h i (List.mem_range.mp hi)]
  rw [hbits]
  exact countP_range_involution hlt hinv _

end Sys2Proof.Machine
end

section
/-! The laws of the permutation networks (`40_bitpermute.md` R56). -/

namespace Sys2Proof.Machine

open Claims

variable {W : Nat}

/-! ### The control mod `W` -/

theorem xor_mod_width (hW : W = 32 ∨ W = 64) (k k' : Nat) : (k ^^^ k') % W = (k % W) ^^^ (k' % W) := by
  rw [(log2_width_le hW).2.2, Nat.xor_mod_two_pow]

theorem or_mod_width (hW : W = 32 ∨ W = 64) (k k' : Nat) : (k ||| k') % W = (k % W) ||| (k' % W) := by
  rw [(log2_width_le hW).2.2, Nat.or_mod_two_pow]

/-- The remainder of a control mod `W`, written as a word, is the same control. -/
theorem ofNat_toNat_mod_width (b : BitVec W) : (BitVec.ofNat W (b.toNat % W)).toNat % W = b.toNat % W := by
  have hfit : b.toNat % W < 2 ^ W := (Nat.mod_le _ _).trans_lt b.isLt
  rw [BitVec.toNat_ofNat, Nat.mod_eq_of_lt hfit, Nat.mod_mod]

/-! ### The reversing network -/

/-- Controls compose by XOR. -/
theorem grev_grev (hW : W = 32 ∨ W = 64) (a b b' : BitVec W) : grev W (grev W a b) b' = grev W a (b ^^^ b') := by
  refine BitVec.eq_of_getLsbD_eq fun i hi => ?_
  rw [grev_getLsbD hW _ _ hi, grev_getLsbD hW _ _ (xor_mod_width_lt hW hi _), grev_getLsbD hW _ _ hi,
    BitVec.toNat_xor, xor_mod_width hW, Nat.xor_assoc, Nat.xor_comm (b'.toNat % W)]

theorem grev_zero (hW : W = 32 ∨ W = 64) (a : BitVec W) : grev W a 0 = a :=
  BitVec.eq_of_getLsbD_eq fun i hi => by rw [grev_getLsbD hW _ _ hi]; simp

/-- Only the control mod `W` matters. -/
theorem grev_control (hW : W = 32 ∨ W = 64) (a : BitVec W) {b b' : BitVec W} (h : b'.toNat % W = b.toNat % W) :
    grev W a b' = grev W a b :=
  BitVec.eq_of_getLsbD_eq fun i hi => by rw [grev_getLsbD hW _ _ hi, grev_getLsbD hW _ _ hi, h]

theorem popcount_grev (hW : W = 32 ∨ W = 64) (a b : BitVec W) : popcount (grev W a b) = popcount a :=
  popcount_of_involution (fun _ hi => xor_mod_width_lt hW hi b.toNat)
    (fun i _ => Nat.xor_xor_cancel_right i (b.toNat % W)) fun _ hi => grev_getLsbD hW a b hi

/-! ### The OR-combining network -/

/-- R54 as a condition on positions: the control mod `W` is its low `log2 W` bits. -/
theorem gorc_getLsbD_iff (hW : W = 32 ∨ W = 64) (a b : BitVec W) {i : Nat} (hi : i < W) :
    (gorc W a b).getLsbD i = true ↔ ∃ j, a.getLsbD j = true ∧ (i ^^^ j) &&& (b.toNat % W) = i ^^^ j := by
  obtain ⟨-, -, hlog⟩ := log2_width_le hW
  rw [gorc_eq_gorcStages, gorcStages_getLsbD hW a b le_rfl hi]
  simp only [← and_mod_eq_iff, ← hlog]

/-- Positions differ inside the ones of `k ||| k'` exactly when some position between them differs from the one inside `k'`
and from the other inside `k`. -/
theorem xor_and_or_eq_iff {k k' i j : Nat} :
    (i ^^^ j) &&& (k ||| k') = i ^^^ j ↔ ∃ t, (i ^^^ t) &&& k' = i ^^^ t ∧ (t ^^^ j) &&& k = t ^^^ j := by
  constructor
  · intro h
    refine ⟨i ^^^ ((i ^^^ j) &&& k'), ?_, ?_⟩
    · rw [Nat.xor_xor_cancel_left, Nat.and_assoc, Nat.and_self]
    · refine Nat.eq_of_testBit_eq fun n => ?_
      have hn := congrArg (Nat.testBit · n) h
      simp only [Nat.testBit_and, Nat.testBit_or, Nat.testBit_xor] at hn ⊢
      grind
  · rintro ⟨t, h', h⟩
    refine Nat.eq_of_testBit_eq fun n => ?_
    have hn := congrArg (Nat.testBit · n) h
    have hn' := congrArg (Nat.testBit · n) h'
    simp only [Nat.testBit_and, Nat.testBit_or, Nat.testBit_xor] at hn hn' ⊢
    grind

/-- Controls compose by OR. -/
theorem gorc_gorc (hW : W = 32 ∨ W = 64) (a b b' : BitVec W) : gorc W (gorc W a b) b' = gorc W a (b ||| b') := by
  refine BitVec.eq_of_getLsbD_eq fun i hi => ?_
  have hinside : ∀ t, (i ^^^ t) &&& (b'.toNat % W) = i ^^^ t → t < W := fun t ht => by
    have hflip := xor_mod_width_lt hW hi ((i ^^^ t) &&& (b'.toNat % W))
    have hsmall : (i ^^^ t) &&& (b'.toNat % W) < W := Nat.and_le_right.trans_lt (Nat.mod_lt _ (by omega))
    rwa [Nat.mod_eq_of_lt hsmall, ht, Nat.xor_xor_cancel_left] at hflip
  rw [Bool.eq_iff_iff, gorc_getLsbD_iff hW _ _ hi, gorc_getLsbD_iff hW _ _ hi, BitVec.toNat_or, or_mod_width hW]
  simp only [xor_and_or_eq_iff]
  constructor
  · rintro ⟨t, ht, hit⟩
    obtain ⟨j, hj, htj⟩ := (gorc_getLsbD_iff hW a b (hinside t hit)).mp ht
    exact ⟨j, hj, t, hit, htj⟩
  · rintro ⟨j, hj, t, hit, htj⟩
    exact ⟨t, (gorc_getLsbD_iff hW a b (hinside t hit)).mpr ⟨j, hj, htj⟩, hit⟩

theorem gorc_zero (hW : W = 32 ∨ W = 64) (a : BitVec W) : gorc W a 0 = a := by
  refine BitVec.eq_of_getLsbD_eq fun i hi => ?_
  rw [Bool.eq_iff_iff, gorc_getLsbD_iff hW _ _ hi]
  simp [eq_comm (a := 0)]

/-- Only the control mod `W` matters. -/
theorem gorc_control (hW : W = 32 ∨ W = 64) (a : BitVec W) {b b' : BitVec W} (h : b'.toNat % W = b.toNat % W) :
    gorc W a b' = gorc W a b :=
  BitVec.eq_of_getLsbD_eq fun i hi => by
    rw [Bool.eq_iff_iff, gorc_getLsbD_iff hW _ _ hi, gorc_getLsbD_iff hW _ _ hi, h]

/-- Settles O29: all laws are read off the closed forms of the two networks. -/
theorem bitPermuteLaws : Obligations.BitPermuteLaws := by
  intro W hW a b b'
  have hcontrol := ofNat_toNat_mod_width b
  refine ⟨?_, grev_zero hW a, gorc_zero hW a, (grev_control hW a hcontrol).symm, (gorc_control hW a hcontrol).symm,
    grev_grev hW a b b', gorc_gorc hW a b b', popcount_grev hW a b⟩
  rw [grev_grev hW, BitVec.xor_self]
  exact grev_zero hW a

end Sys2Proof.Machine
end

section
/-! The laws of the funnel shift (`42_funnel_shift.md` R75). -/

namespace Sys2Proof.Machine

variable {W : Nat}

/-! ### Adding `W` to the amount -/

/-- The funnel by an amount `W` further round has its data operands swapped. -/
theorem funnel_swap (a c : BitVec W) {sh : Nat} (hsh : sh < 2 * W) :
    funnel W a ((sh + W) % (2 * W)) c = funnel W c sh a := by
  unfold funnel
  by_cases hlow : sh < W
  · rw [Nat.mod_eq_of_lt (by omega), if_pos (by omega), if_neg (by omega), Nat.add_sub_cancel]
  · have hwrap : (sh + W) % (2 * W) = sh - W := by
      rw [Nat.mod_eq_sub_mod (by omega), Nat.mod_eq_of_lt (by omega)]
      omega
    rw [hwrap, if_neg (by omega), if_pos (by omega)]

/-- The amounts of R75 as numbers: `W` is added to the amount of `fsl` and to the negated amount of `fsr`, and the negated
amount of `fsl`, written into the operand, is negated back by `fsr`. -/
theorem funnel_amounts (hW : W = 32 ∨ W = 64) (b : BitVec W) :
    (b + BitVec.ofNat W W).toNat % (2 * W) = (b.toNat % (2 * W) + W) % (2 * W) ∧
      (2 * W - (b + BitVec.ofNat W W).toNat % (2 * W)) % (2 * W) =
        ((2 * W - b.toNat % (2 * W)) % (2 * W) + W) % (2 * W) ∧
      (2 * W - (BitVec.ofNat W ((2 * W - b.toNat % (2 * W)) % (2 * W))).toNat % (2 * W)) % (2 * W) =
        b.toNat % (2 * W) := by
  simp only [BitVec.toNat_add, BitVec.toNat_ofNat]
  obtain rfl | rfl := hW <;> refine ⟨?_, ?_, ?_⟩ <;> omega

/-! ### Equal outer operands -/

/-- A value next to itself, read below twice its width, repeats it. -/
theorem append_self_getLsbD (a : BitVec W) {p : Nat} (hp : p < 2 * W) : (a ++ a).getLsbD p = a.getLsbD (p % W) := by
  rw [BitVec.getLsbD_append]
  split_ifs with hlow
  · rw [Nat.mod_eq_of_lt hlow]
  · rw [Nat.mod_eq_sub_mod (by omega), Nat.mod_eq_of_lt (by omega)]

theorem fsl_self (hW : W = 32 ∨ W = 64) (a b : BitVec W) : fsl W a b a = a.rotateLeft (b.toNat % W) := by
  refine BitVec.eq_of_getLsbD_eq fun i hi => ?_
  have hsource : (W + i + (2 * W - b.toNat % (2 * W))) % (2 * W) % W =
      if i < b.toNat % W then W - b.toNat % W + i else i - b.toNat % W := by
    obtain rfl | rfl := hW <;> split_ifs <;> omega
  rw [fsl_getLsbD _ _ _ hi, append_self_getLsbD a (Nat.mod_lt _ (by omega)), hsource,
    BitVec.getLsbD_rotateLeft, Nat.mod_mod, Bool.cond_decide, decide_eq_true hi, Bool.true_and]
  split_ifs <;> rfl

/-! ### No bit is filled in -/

/-- A bit of the pair `a ++ c` is a copy of one fixed bit of `a` or of `c`. -/
theorem exists_source_of_append {f : BitVec W → BitVec W → Bool} {p : Nat} (hp : p < 2 * W)
    (h : ∀ a c, f a c = (a ++ c).getLsbD p) :
    ∃ j < W, (∀ a c, f a c = a.getLsbD j) ∨ ∀ a c, f a c = c.getLsbD j := by
  simp only [BitVec.getLsbD_append] at h
  by_cases hlow : p < W
  · exact ⟨p, hlow, .inr fun a c => by rw [h, if_pos hlow]⟩
  · exact ⟨p - W, by omega, .inl fun a c => by rw [h, if_neg hlow]⟩

/-- Settles O35: the first two laws are about the amounts, the others about the positions that the rotation reads. -/
theorem funnelShiftLaws : Obligations.FunnelShiftLaws := by
  intro W hW b
  obtain ⟨hleft, hright, hmirror⟩ := funnel_amounts hW b
  refine ⟨fun a c => ⟨?_, ?_, ?_, fsl_self hW a b⟩, ?_⟩
  · rw [fsr, hmirror, fsl]
  · rw [fsl, hleft, funnel_swap a c (Nat.mod_lt _ (by omega)), fsl]
  · rw [fsr, hright, funnel_swap a c (Nat.mod_lt _ (by omega)), fsr]
  · simp only [List.forall_mem_cons]
    exact ⟨fun i hi => exists_source_of_append (Nat.mod_lt _ (by omega)) fun a c => fsl_getLsbD a b c hi,
      fun i hi => exists_source_of_append (Nat.mod_lt _ (by omega)) fun a c => fsr_getLsbD a b c hi,
      List.forall_mem_nil _⟩

end Sys2Proof.Machine
end

section
/-! The laws of the shuffles and the full shuffle (`43_shuffle.md` R82, R83, R86). -/

namespace Sys2Proof.Machine

open Claims

variable {W : Nat}

/-! ### One stage is an involution -/

theorem exchangeIndexBits_involutive (j : Nat) : Function.Involutive (exchangeIndexBits j) := by
  intro p
  have hmask : (3 * 2 ^ j).testBit j = true ∧ (3 * 2 ^ j).testBit (j + 1) = true := by
    simp [Nat.testBit_mul_two_pow, show Nat.testBit 3 1 = true from rfl]
  unfold exchangeIndexBits
  by_cases heq : p.testBit j = p.testBit (j + 1)
  · rw [if_pos heq, if_pos heq]
  · rw [if_neg heq, Nat.testBit_xor, Nat.testBit_xor, hmask.1, hmask.2, if_neg (by simpa using heq),
      Nat.xor_xor_cancel_right]

/-- `shuffleStage_getLsbD` in the terms of the statements. -/
theorem shuffleStage_getLsbD_exchange (hW : W = 32 ∨ W = 64) (x : BitVec W) {p j : Nat} (hp : p < W)
    (hj : j + 1 < Nat.log2 W) : (shuffleStage x j).getLsbD p = x.getLsbD (exchangeIndexBits j p) :=
  shuffleStage_getLsbD hW x hp hj

theorem shuffleStage_shuffleStage (hW : W = 32 ∨ W = 64) (x : BitVec W) {j : Nat} (hj : j + 1 < Nat.log2 W) :
    shuffleStage (shuffleStage x j) j = x :=
  BitVec.eq_of_getLsbD_eq fun p hp => by
    rw [shuffleStage_getLsbD_exchange hW _ hp hj,
      shuffleStage_getLsbD_exchange hW _ (exchangeIndexBits_lt_width hW hj hp) hj, exchangeIndexBits_involutive]

theorem popcount_shuffleStage (hW : W = 32 ∨ W = 64) (x : BitVec W) {j : Nat} (hj : j + 1 < Nat.log2 W) :
    popcount (shuffleStage x j) = popcount x :=
  popcount_of_involution (fun _ hp => exchangeIndexBits_lt_width hW hj hp)
    (fun p _ => exchangeIndexBits_involutive j p) fun _ hp => shuffleStage_getLsbD_exchange hW x hp hj

/-! ### Lists of stages -/

theorem shuffleStages_append (l l' : List Nat) (k : Nat) (x : BitVec W) :
    shuffleStages (l ++ l') k x = shuffleStages l' k (shuffleStages l k x) := List.foldl_append ..

section stages

variable (hW : W = 32 ∨ W = 64) {stages : List Nat} (hstages : ∀ j ∈ stages, j + 1 < Nat.log2 W) (k : Nat)

include hW hstages

/-- The stages in the opposite order undo the movement. -/
theorem shuffleStages_reverse_cancel (x : BitVec W) :
    shuffleStages stages k (shuffleStages stages.reverse k x) = x := by
  induction stages with
  | nil => rfl
  | cons j stages ih =>
    obtain ⟨hj, hrest⟩ := List.forall_mem_cons.mp hstages
    rw [List.reverse_cons, shuffleStages_append, shuffleStages_cons, shuffleStages_cons, shuffleStages_nil]
    split_ifs
    · rw [shuffleStage_shuffleStage hW _ hj, ih hrest]
    · exact ih hrest

theorem popcount_shuffleStages (x : BitVec W) : popcount (shuffleStages stages k x) = popcount x := by
  induction stages generalizing x with
  | nil => rfl
  | cons j stages ih =>
    obtain ⟨hj, hrest⟩ := List.forall_mem_cons.mp hstages
    rw [shuffleStages_cons, ih hrest]
    split_ifs
    · exact popcount_shuffleStage hW x hj
    · rfl

theorem isWiring_shuffleStages : IsWiring (shuffleStages (W := W) stages k) :=
  isWiring_of_source fun x _ hp => shuffleStages_getLsbD hW hstages k x hp

end stages

/-! ### The stages of the two functions -/

/-- The stages of a width: those of `unshfl`, from 1 up. -/
def stagesUp (W : Nat) : List Nat := List.range (Nat.log2 W - 1)

theorem stagesUp_lt : ∀ j ∈ stagesUp W, j + 1 < Nat.log2 W := fun j hj => by
  have := List.mem_range.mp hj
  omega

theorem stagesDown_lt : ∀ j ∈ (stagesUp W).reverse, j + 1 < Nat.log2 W :=
  fun j hj => stagesUp_lt j (List.mem_reverse.mp hj)

/-- The remainder of a control mod `W/2`, written as a word, is the same control. -/
theorem ofNat_toNat_mod_half_width (b : BitVec W) :
    (BitVec.ofNat W (b.toNat % (W / 2))).toNat % (W / 2) = b.toNat % (W / 2) := by
  have hfit : b.toNat % (W / 2) < 2 ^ W := (Nat.mod_le _ _).trans_lt b.isLt
  rw [BitVec.toNat_ofNat, Nat.mod_eq_of_lt hfit, Nat.mod_mod]

/-- R86 (ii) to (iv) for a network of any stages under the control `b mod W/2`. -/
theorem shuffleStages_laws (hW : W = 32 ∨ W = 64) {stages : List Nat} (hstages : ∀ j ∈ stages, j + 1 < Nat.log2 W)
    {f : BitVec W → BitVec W → BitVec W} (hf : ∀ a b, f a b = shuffleStages stages (b.toNat % (W / 2)) a)
    (a a' b : BitVec W) :
    f a b = f a (BitVec.ofNat W (b.toNat % (W / 2))) ∧ popcount (f a b) = popcount a ∧
      f (a ^^^ a') b = f a b ^^^ f a' b ∧ f (a &&& a') b = f a b &&& f a' b ∧
      f (a ||| a') b = f a b ||| f a' b := by
  have hwiring := isWiring_shuffleStages hW hstages (b.toNat % (W / 2))
  have hcontrol : f a b = f a (BitVec.ofNat W (b.toNat % (W / 2))) := by rw [hf, hf, ofNat_toNat_mod_half_width]
  refine ⟨hcontrol, ?_⟩
  simp only [hf]
  exact ⟨popcount_shuffleStages hW hstages _ a, hwiring.isXorLinear a a', hwiring.map_and a a',
    hwiring.map_or a a'⟩

/-! ### The full shuffle -/

/-- Where bit `p` of the full shuffle of a width comes from. -/
def fullShuffleSource (W p : Nat) : Nat := shuffleSource (stagesUp W).reverse (W / 2 - 1) p

/-- Where bit `p` of the full unshuffle of a width comes from. -/
def fullUnshuffleSource (W p : Nat) : Nat := shuffleSource (stagesUp W) (W / 2 - 1) p

theorem fullControl_toNat_mod (hW : W = 32 ∨ W = 64) : (BitVec.ofNat W (W / 2 - 1)).toNat % (W / 2) = W / 2 - 1 := by
  obtain rfl | rfl := hW <;> rfl

theorem fullShuffle_getLsbD (hW : W = 32 ∨ W = 64) (a : BitVec W) {p : Nat} (hp : p < W) :
    (shfl W a (BitVec.ofNat W (W / 2 - 1))).getLsbD p = a.getLsbD (fullShuffleSource W p) := by
  rw [shfl_eq_shuffleStages, fullControl_toNat_mod hW]
  exact shuffleStages_getLsbD hW stagesDown_lt _ a hp

theorem fullUnshuffle_getLsbD (hW : W = 32 ∨ W = 64) (a : BitVec W) {p : Nat} (hp : p < W) :
    (unshfl W a (BitVec.ofNat W (W / 2 - 1))).getLsbD p = a.getLsbD (fullUnshuffleSource W p) := by
  rw [unshfl_eq_shuffleStages, fullControl_toNat_mod hW]
  exact shuffleStages_getLsbD hW stagesUp_lt _ a hp

/-- The full shuffle rotates the index bits by one, so `log2 W` of them lead back. -/
theorem fullShuffleSource_iterate (hW : W = 32 ∨ W = 64) :
    ∀ p < W, fullShuffleSource W p < W ∧ (fullShuffleSource W)^[Nat.log2 W] p = p := by
  obtain rfl | rfl := hW <;> decide +kernel

/-- The full shuffle interleaves the halves, and the full unshuffle gathers them (R82, R83). -/
theorem fullShuffleSource_interleaves (hW : W = 32 ∨ W = 64) :
    ∀ i < W / 2, fullShuffleSource W (2 * i) = i ∧ fullShuffleSource W (2 * i + 1) = W / 2 + i ∧
      fullUnshuffleSource W i = 2 * i ∧ fullUnshuffleSource W (W / 2 + i) = 2 * i + 1 := by
  obtain rfl | rfl := hW <;> decide +kernel

/-- Doing one movement of bits `n` times moves each bit along the `n`-fold movement. -/
theorem iterate_getLsbD {f : BitVec W → BitVec W} {σ : Nat → Nat}
    (h : ∀ x, ∀ p < W, σ p < W ∧ (f x).getLsbD p = x.getLsbD (σ p)) (n : Nat) (x : BitVec W) {p : Nat} (hp : p < W) :
    (f^[n] x).getLsbD p = x.getLsbD (σ^[n] p) := by
  induction n generalizing p with
  | zero => rfl
  | succ n ih =>
    obtain ⟨hlt, hbit⟩ := h (f^[n] x) p hp
    rw [Function.iterate_succ_apply', hbit, ih hlt, ← Function.iterate_succ_apply]

/-- Settles O38: the two functions are the same stages in opposite orders, and each stage is an involution of the positions;
the order of the full shuffle is that of its movement. -/
theorem shuffleLaws : Obligations.ShuffleLaws := by
  intro W hW a a' b
  refine ⟨shuffleStages_reverse_cancel hW stagesUp_lt _ a, ?_, ?_, ?_⟩
  · have h := shuffleStages_reverse_cancel hW stagesDown_lt (b.toNat % (W / 2)) a
    rwa [List.reverse_reverse] at h
  · simp only [List.forall_mem_cons]
    exact ⟨shuffleStages_laws hW stagesDown_lt shfl_eq_shuffleStages a a' b,
      shuffleStages_laws hW stagesUp_lt unshfl_eq_shuffleStages a a' b, List.forall_mem_nil _⟩
  · have horder := fullShuffleSource_iterate hW
    refine BitVec.eq_of_getLsbD_eq fun p hp => ?_
    rw [iterate_getLsbD (fun x p hp => ⟨(horder p hp).1, fullShuffle_getLsbD hW x hp⟩) _ a hp, (horder p hp).2]

/-- Settles O39: the sources of the full shuffle and of the full unshuffle, read as bits. -/
theorem fullShuffleInterleavesHalves : Obligations.FullShuffleInterleavesHalves := by
  intro W hW a i hi full
  obtain ⟨heven, hodd, hlow, hhigh⟩ := fullShuffleSource_interleaves hW i hi
  refine ⟨?_, ?_, ?_, ?_⟩
  · rw [fullShuffle_getLsbD hW a (by omega), heven]
  · rw [fullShuffle_getLsbD hW a (by omega), hodd]
  · rw [fullUnshuffle_getLsbD hW a (by omega), hlow]
  · rw [fullUnshuffle_getLsbD hW a (by omega), hhigh]

end Sys2Proof.Machine
end

section
/-! The laws of the crossbar (`44_crossbar.md` R95). -/

namespace Sys2Proof.Machine

open Claims

section groups

variable {W : Nat} (hW : W = 32 ∨ W = 64) {g : Nat} (hg : g ≤ 5)

include hW hg

/-- R90 by groups: the source position of the group of bit `i`, or zero when it is beyond the word. -/
theorem xperm_getLsbD_source (a b : BitVec W) {i : Nat} (hi : i < W) :
    (xperm g W a b).getLsbD i =
      (decide (xpermSource (2 ^ g) b (i / 2 ^ g) < W) && a.getLsbD (xpermSource (2 ^ g) b (i / 2 ^ g) + i % 2 ^ g)) := by
  rw [xperm_getLsbD hW hg a b hi, crossbarBit_eq_xpermSource]

theorem isWiring_xperm (b : BitVec W) : IsWiring fun a => xperm g W a b := by
  intro i hi
  simp only [xperm_getLsbD_source hW hg _ b hi]
  by_cases hsource : xpermSource (2 ^ g) b (i / 2 ^ g) < W
  · exact .inr ⟨_, fun x => by rw [decide_eq_true hsource, Bool.true_and]⟩
  · exact .inl fun x => by rw [decide_eq_false hsource, Bool.false_and]

/-- A destination group is the group at its source position, or zero when that is beyond the word. -/
theorem xperm_group (a b : BitVec W) {n : Nat} (hn : n < W / 2 ^ g) :
    (xperm g W a b).extractLsb' (2 ^ g * n) (2 ^ g) =
      if xpermSource (2 ^ g) b n < W then a.extractLsb' (xpermSource (2 ^ g) b n) (2 ^ g) else 0 := by
  have hpos := Nat.two_pow_pos g
  refine BitVec.eq_of_getLsbD_eq fun t ht => ?_
  have hi : 2 ^ g * n + t < W := calc
    2 ^ g * n + t < 2 ^ g * (n + 1) := by rw [Nat.mul_succ]; omega
    _ ≤ 2 ^ g * (W / 2 ^ g) := Nat.mul_le_mul_left _ hn
    _ ≤ W := Nat.mul_div_le W _
  have hgroup : (2 ^ g * n + t) / 2 ^ g = n := by rw [Nat.mul_add_div hpos, Nat.div_eq_of_lt ht, Nat.add_zero]
  have hoffset : (2 ^ g * n + t) % 2 ^ g = t := by rw [Nat.mul_add_mod, Nat.mod_eq_of_lt ht]
  rw [BitVec.getLsbD_extractLsb', xperm_getLsbD_source hW hg a b hi, hgroup, hoffset, decide_eq_true ht, Bool.true_and]
  split_ifs with hsource
  · rw [decide_eq_true hsource, BitVec.getLsbD_extractLsb', decide_eq_true ht]
  · rw [decide_eq_false hsource, Bool.false_and]
    simp

/-- R95 (i). -/
theorem xperm_group_zero_or_copy (a b : BitVec W) {n : Nat} (hn : n < W / 2 ^ g) :
    (xperm g W a b).extractLsb' (2 ^ g * n) (2 ^ g) = 0 ∨
      ∃ j < W / 2 ^ g, (xperm g W a b).extractLsb' (2 ^ g * n) (2 ^ g) = a.extractLsb' (2 ^ g * j) (2 ^ g) := by
  rw [xperm_group hW hg a b hn]
  split_ifs with hsource
  · refine .inr ⟨(b.extractLsb' (2 ^ g * n) (2 ^ g)).toNat, ?_, by rw [xpermSource, Nat.mul_comm]⟩
    exact Nat.lt_of_mul_lt_mul_right (a := 2 ^ g) (by rwa [Nat.div_mul_cancel (two_pow_dvd_width hW hg)])
  · exact .inl rfl

/-- R95 (iv): identity indices read every group from its own place. -/
theorem xperm_identity (a b : BitVec W)
    (hid : ∀ n < W / 2 ^ g, (b.extractLsb' (2 ^ g * n) (2 ^ g)).toNat = n) : xperm g W a b = a := by
  refine BitVec.eq_of_getLsbD_eq fun i hi => ?_
  have hgroup : i / 2 ^ g < W / 2 ^ g := Nat.div_lt_div_of_lt_of_dvd (two_pow_dvd_width hW hg) hi
  have hsource : xpermSource (2 ^ g) b (i / 2 ^ g) = i / 2 ^ g * 2 ^ g := by rw [xpermSource, hid _ hgroup]
  have hlt : i / 2 ^ g * 2 ^ g < W := (Nat.div_mul_le_self i _).trans_lt hi
  rw [xperm_getLsbD_source hW hg a b hi, hsource, decide_eq_true hlt, Bool.true_and, Nat.div_add_mod']

end groups

/-- Settles O42: each group is read from one place that the indices fix, so the function is a wiring of the data. -/
theorem crossbarLaws : Obligations.CrossbarLaws := by
  intro W hW g hmem a a' b
  have hg : g ≤ 5 := by
    simp only [List.mem_cons, List.not_mem_nil, or_false] at hmem
    omega
  have hwiring := isWiring_xperm hW hg b
  exact ⟨fun n hn => xperm_group_zero_or_copy hW hg a b hn, hwiring.isXorLinear.map_zero, hwiring.map_or a a',
    hwiring.map_and a a', hwiring.isXorLinear a a', xperm_identity hW hg a b⟩

end Sys2Proof.Machine
end

section
/-! The laws of the gather and the scatter (`46_compress.md` R113). -/

namespace Sys2Proof.Machine

open Claims

variable {W : Nat}

/-! ### The rank names each mask bit once -/

theorem popcount_eq_maskRank (m : BitVec W) : popcount m = maskRank m W := rfl

theorem maskRank_mono (m : BitVec W) : Monotone (maskRank m) :=
  monotone_nat_of_le_succ fun n => by rw [maskRank_succ]; exact Nat.le_add_right _ _

/-- Above a mask bit the rank is higher. -/
theorem maskRank_lt_of_lt {m : BitVec W} {i j : Nat} (hi : m.getLsbD i = true) (hij : i < j) :
    maskRank m i < maskRank m j := calc
  maskRank m i < maskRank m (i + 1) := by rw [maskRank_succ, hi]; exact Nat.lt_succ_self _
  _ ≤ maskRank m j := maskRank_mono m hij

theorem maskRank_inj {m : BitVec W} {i j : Nat} (hi : m.getLsbD i = true) (hj : m.getLsbD j = true)
    (h : maskRank m i = maskRank m j) : i = j := by
  obtain hlt | heq | hgt := Nat.lt_trichotomy i j
  · exact absurd h (maskRank_lt_of_lt hi hlt).ne
  · exact heq
  · exact absurd h (maskRank_lt_of_lt hj hgt).ne'

/-- The ranks of the mask bits below a position are the numbers below its rank. -/
theorem exists_maskBit_of_rank {m : BitVec W} {n t : Nat} (ht : t < maskRank m n) :
    ∃ i < n, m.getLsbD i = true ∧ maskRank m i = t := by
  induction n with
  | zero => simp at ht
  | succ n ih =>
    by_cases hlow : t < maskRank m n
    · obtain ⟨i, hi, hmask, hrank⟩ := ih hlow
      exact ⟨i, by omega, hmask, hrank⟩
    · rw [maskRank_succ] at ht
      cases hmask : m.getLsbD n with
      | false => rw [hmask, Bool.toNat_false] at ht; omega
      | true => rw [hmask, Bool.toNat_true] at ht; exact ⟨n, by omega, hmask, by omega⟩

/-! ### The gather at one position -/

/-- The data bit at a mask bit goes to the position that its rank names. -/
theorem bcompress_getLsbD_rank (a : BitVec W) {m : BitVec W} {i : Nat} (hi : m.getLsbD i = true) :
    (bcompress W a m).getLsbD (maskRank m i) = a.getLsbD i := by
  have hlt : i < W := BitVec.lt_of_getLsbD hi
  rw [bcompress_getLsbD a m ((maskRank_le m i).trans_lt hlt), Bool.eq_iff_iff]
  simp only [List.any_eq_true, List.mem_range, Bool.and_eq_true, beq_iff_eq]
  constructor
  · rintro ⟨j, -, ⟨hj, hrank⟩, ha⟩
    exact maskRank_inj hj hi hrank ▸ ha
  · exact fun ha => ⟨i, hlt, ⟨hi, rfl⟩, ha⟩

/-- From the number of mask bits on, the result of the gather is zero. -/
theorem bcompress_getLsbD_of_ge (a m : BitVec W) {t : Nat} (ht : maskRank m W ≤ t) :
    (bcompress W a m).getLsbD t = false := by
  by_cases hlt : t < W
  · rw [bcompress_getLsbD a m hlt, List.any_eq_false]
    intro i hi
    have hrank : m.getLsbD i = true → maskRank m i < t :=
      fun hmask => (maskRank_lt_of_lt hmask (List.mem_range.mp hi)).trans_le ht
    simp only [Bool.and_eq_true, beq_iff_eq, not_and]
    intro ⟨hmask, heq⟩
    exact absurd heq (hrank hmask).ne
  · exact BitVec.getLsbD_of_ge _ _ (by omega)

/-- A bit of a gather is that of one mask bit, or zero. -/
theorem bcompress_source (m : BitVec W) (t : Nat) :
    (maskRank m W ≤ t ∧ ∀ a, (bcompress W a m).getLsbD t = false) ∨
      t < maskRank m W ∧ ∃ i, m.getLsbD i = true ∧ maskRank m i = t ∧ ∀ a, (bcompress W a m).getLsbD t = a.getLsbD i := by
  obtain hlt | hge := Nat.lt_or_ge t (maskRank m W)
  · obtain ⟨i, -, hmask, rfl⟩ := exists_maskBit_of_rank hlt
    exact .inr ⟨hlt, i, hmask, rfl, fun a => bcompress_getLsbD_rank a hmask⟩
  · exact .inl ⟨hge, fun a => bcompress_getLsbD_of_ge a m hge⟩

/-! ### The laws -/

theorem isWiring_bcompress (m : BitVec W) : IsWiring fun a => bcompress W a m := by
  intro t _
  obtain ⟨-, hzero⟩ | ⟨-, i, -, -, hcopy⟩ := bcompress_source m t
  · exact .inl hzero
  · exact .inr ⟨i, hcopy⟩

theorem isWiring_bdecompress (m : BitVec W) : IsWiring fun a => bdecompress W a m := by
  intro i hi
  simp only [bdecompress_getLsbD _ m hi]
  cases m.getLsbD i with
  | false => exact .inl fun _ => rfl
  | true => exact .inr ⟨maskRank m i, fun _ => rfl⟩

theorem bdecompress_bcompress (a m : BitVec W) : bdecompress W (bcompress W a m) m = a &&& m := by
  refine BitVec.eq_of_getLsbD_eq fun i hi => ?_
  rw [bdecompress_getLsbD _ m hi, BitVec.getLsbD_and]
  cases hmask : m.getLsbD i with
  | false => rw [Bool.false_and, Bool.and_false]
  | true => rw [bcompress_getLsbD_rank a hmask, Bool.true_and, Bool.and_true]

/-- The low `n` bits are ones. -/
theorem ofNat_two_pow_sub_one_getLsbD (n : Nat) {t : Nat} (ht : t < W) :
    (BitVec.ofNat W (2 ^ n - 1)).getLsbD t = decide (t < n) := by
  rw [BitVec.getLsbD_ofNat, decide_eq_true ht, Bool.true_and, Nat.testBit_two_pow_sub_one]

theorem bcompress_bdecompress (a m : BitVec W) :
    bcompress W (bdecompress W a m) m = a &&& BitVec.ofNat W (2 ^ popcount m - 1) := by
  refine BitVec.eq_of_getLsbD_eq fun t ht => ?_
  rw [BitVec.getLsbD_and, ofNat_two_pow_sub_one_getLsbD _ ht, popcount_eq_maskRank]
  obtain ⟨hge, hzero⟩ | ⟨hlt, i, hmask, hrank, hcopy⟩ := bcompress_source m t
  · rw [hzero, decide_eq_false (by omega), Bool.and_false]
  · rw [hcopy, bdecompress_getLsbD a m (BitVec.lt_of_getLsbD hmask), hmask, hrank, decide_eq_true hlt, Bool.true_and,
      Bool.and_true]

theorem bcompress_and_mask (a m : BitVec W) : bcompress W a m = bcompress W (a &&& m) m := by
  refine BitVec.eq_of_getLsbD_eq fun t _ => ?_
  obtain ⟨-, hzero⟩ | ⟨-, i, hmask, -, hcopy⟩ := bcompress_source m t
  · rw [hzero, hzero]
  · rw [hcopy, hcopy, BitVec.getLsbD_and, hmask, Bool.and_true]

theorem bcompress_self (m : BitVec W) : bcompress W m m = BitVec.ofNat W (2 ^ popcount m - 1) := by
  refine BitVec.eq_of_getLsbD_eq fun t ht => ?_
  rw [ofNat_two_pow_sub_one_getLsbD _ ht, popcount_eq_maskRank]
  obtain ⟨hge, hzero⟩ | ⟨hlt, i, hmask, -, hcopy⟩ := bcompress_source m t
  · rw [hzero, decide_eq_false (by omega)]
  · rw [hcopy, hmask, decide_eq_true hlt]

/-- Settles O48: the rank is a one-to-one map from the mask bits onto the positions below their number. -/
theorem compressLaws : Obligations.CompressLaws := by
  intro W _ a a' m
  have hwiring : ∀ f ∈ [bcompress W, bdecompress W], IsWiring fun x => f x m := by
    simp only [List.forall_mem_cons]
    exact ⟨isWiring_bcompress m, isWiring_bdecompress m, List.forall_mem_nil _⟩
  exact ⟨bdecompress_bcompress a m, bcompress_bdecompress a m, bcompress_and_mask a m, bcompress_self m,
    fun f hf => ⟨(hwiring f hf).map_or a a', (hwiring f hf).map_and a a', (hwiring f hf).isXorLinear a a'⟩⟩

end Sys2Proof.Machine
end

section
/-! The carry-less multiplier by bits, and the three readings of `clmulr` (`41_carryless_mul.md` R60 to R63). -/

namespace Sys2Proof.Machine

open Claims

variable {W V : Nat}

/-! ### The bits of the product -/

/-- A bit of a multiplier loop is the parity of the number of terms that have it. -/
theorem xorWhere_getLsbD (l : List Nat) (b : BitVec W) (g : Nat → BitVec V) (n : Nat) :
    (xorWhere l b g).getLsbD n = ((l.countP fun i => b.getLsbD i && (g i).getLsbD n) % 2 == 1) := by
  induction l with
  | nil => simp
  | cons i l ih =>
    have hterm : (if b.getLsbD i then g i else 0).getLsbD n = (b.getLsbD i && (g i).getLsbD n) := by
      cases b.getLsbD i <;> simp
    rw [xorWhere_cons, BitVec.getLsbD_xor, ih, hterm, List.countP_cons]
    cases b.getLsbD i && (g i).getLsbD n with
    | false => simp
    | true => rw [if_pos rfl, Bool.eq_iff_iff]; simp; omega

/-- R60 by bits. -/
theorem carrylessProduct_getLsbD (a b : BitVec W) {n : Nat} (hn : n < 2 * W) :
    (carrylessProduct W a b).getLsbD n = productBit a b n := by
  rw [carrylessProduct_eq_xorWhere, xorWhere_getLsbD, productBit]
  have hterm : ∀ i, (a.setWidth (2 * W) <<< i).getLsbD n = (decide (i ≤ n) && a.getLsbD (n - i)) := fun i => by
    have hwide : n - i < 2 * W := by omega
    rw [BitVec.getLsbD_shiftLeft, BitVec.getLsbD_setWidth, decide_eq_true hn, decide_eq_true hwide, ← decide_not]
    simp only [Nat.not_lt, Bool.true_and]
  simp only [hterm, Bool.and_assoc]

/-- `clmulr` is the bit field of the product from bit `W - 1` on (R63). -/
theorem extractLsb'_middle_carrylessProduct (a b : BitVec W) :
    (carrylessProduct W a b).extractLsb' (W - 1) W = clmulr W a b := by
  rw [carrylessProduct_eq_xorWhere, (isXorLinear_extractLsb' (W - 1) W).map_xorWhere, clmulr_eq_xorWhere]
  refine xorWhere_congr b fun i hi => BitVec.eq_of_getLsbD_eq fun n hn => ?_
  have hlt : i < W := List.mem_range.mp hi
  have hwide : W - 1 + n < 2 * W ∧ W - 1 + n - i < 2 * W ∧ ¬ W - 1 + n < i := by omega
  have hpos : W - 1 + n - i = W - i - 1 + n := by omega
  simp [hn, hwide, hpos]

section bits

variable (a b : BitVec W) {n : Nat} (hn : n < W)

include hn

theorem clmul_getLsbD : (clmul W a b).getLsbD n = productBit a b n := by
  rw [← extractLsb'_low_carrylessProduct, BitVec.getLsbD_extractLsb', decide_eq_true hn, Bool.true_and, Nat.zero_add,
    carrylessProduct_getLsbD a b (by omega)]

theorem clmulh_getLsbD : (clmulh W a b).getLsbD n = productBit a b (W + n) := by
  rw [← extractLsb'_high_carrylessProduct, BitVec.getLsbD_extractLsb', decide_eq_true hn, Bool.true_and,
    carrylessProduct_getLsbD a b (by omega)]

theorem clmulr_getLsbD : (clmulr W a b).getLsbD n = productBit a b (W - 1 + n) := by
  rw [← extractLsb'_middle_carrylessProduct, BitVec.getLsbD_extractLsb', decide_eq_true hn, Bool.true_and,
    carrylessProduct_getLsbD a b (by omega)]

end bits

/-- Settles O30: the three are bit fields of the product at the build's width. -/
theorem clmulByBits : Obligations.ClmulByBits := by
  intro s rd rs1 rs2 W a b
  exact ⟨completesWith_nativeBits2 rfl fun _ hn => clmul_getLsbD a b hn,
    completesWith_nativeBits2 rfl fun _ hn => clmulh_getLsbD a b hn,
    completesWith_nativeBits2 rfl fun _ hn => clmulr_getLsbD a b hn⟩

/-! ### The bits in the opposite order -/

/-- The bit reversal of a word: `grev` with all control bits set (R63). -/
def reverseBits (v : BitVec W) : BitVec W := grev W v (BitVec.ofNat W (W - 1))

theorem xor_pred_width (hW : W = 32 ∨ W = 64) : ∀ i < W, i ^^^ (W - 1) = W - 1 - i := by
  obtain rfl | rfl := hW <;> decide

theorem reverseBits_getLsbD (hW : W = 32 ∨ W = 64) (v : BitVec W) {i : Nat} (hi : i < W) :
    (reverseBits v).getLsbD i = v.getLsbD (W - 1 - i) := by
  have hcontrol : (BitVec.ofNat W (W - 1)).toNat % W = W - 1 := by obtain rfl | rfl := hW <;> rfl
  rw [reverseBits, grev_getLsbD hW v _ hi, hcontrol, xor_pred_width hW i hi]

/-- The product of the reversed operands has the bits of the product in the opposite order: the pair of positions `i` and
`j` becomes `W - 1 - i` and `W - 1 - j`. -/
theorem productBit_reverseBits (hW : W = 32 ∨ W = 64) (a b : BitVec W) {n : Nat} (hn : n < W) :
    productBit (reverseBits a) (reverseBits b) (W - 1 - n) = productBit a b (W - 1 + n) := by
  have hpairs := countP_range_involution (n := W) (σ := fun i => W - 1 - i) (fun _ _ => by omega) (fun _ _ => by omega)
    fun i => b.getLsbD i && decide (i ≤ W - 1 + n) && a.getLsbD (W - 1 + n - i)
  have hterm : ∀ i < W,
      ((reverseBits b).getLsbD i && decide (i ≤ W - 1 - n) && (reverseBits a).getLsbD (W - 1 - n - i)) =
        (b.getLsbD (W - 1 - i) && decide (W - 1 - i ≤ W - 1 + n) && a.getLsbD (W - 1 + n - (W - 1 - i))) := fun i hi => by
    have hpos : W - 1 + n - (W - 1 - i) = n + i := by omega
    have hle : W - 1 - i ≤ W - 1 + n := by omega
    rw [reverseBits_getLsbD hW b hi, reverseBits_getLsbD hW a (by omega), hpos, decide_eq_true hle, Bool.and_true]
    by_cases hin : i ≤ W - 1 - n
    · have hback : W - 1 - (W - 1 - n - i) = n + i := by omega
      rw [decide_eq_true hin, hback, Bool.and_true]
    · rw [decide_eq_false hin, BitVec.getLsbD_of_ge a (n + i) (by omega), Bool.and_false, Bool.false_and]
  unfold productBit
  rw [← hpairs]
  congr 2
  exact List.countP_congr fun i hi => by rw [hterm i (List.mem_range.mp hi)]

/-! ### The three readings of `clmulr` -/

theorem clmulr_toNat (a b : BitVec W) :
    (clmulr W a b).toNat = (carrylessProduct W a b).toNat >>> (W - 1) % 2 ^ W := by
  rw [← extractLsb'_middle_carrylessProduct, BitVec.extractLsb'_toNat]

theorem clmulr_eq_reverseBits (hW : W = 32 ∨ W = 64) (a b : BitVec W) :
    clmulr W a b = reverseBits (clmul W (reverseBits a) (reverseBits b)) :=
  BitVec.eq_of_getLsbD_eq fun n hn => by
    rw [clmulr_getLsbD a b hn, reverseBits_getLsbD hW _ hn, clmul_getLsbD _ _ (by omega),
      productBit_reverseBits hW a b hn]

theorem clmulr_eq_clmulh_or_clmul (a b : BitVec W) :
    clmulr W a b = (clmulh W a b <<< 1) ||| (clmul W a b >>> (W - 1)) := by
  refine BitVec.eq_of_getLsbD_eq fun n hn => ?_
  rw [clmulr_getLsbD a b hn, BitVec.getLsbD_or, BitVec.getLsbD_shiftLeft, BitVec.getLsbD_ushiftRight]
  cases n with
  | zero => rw [clmul_getLsbD a b (by omega)]; simp
  | succ n =>
    have hpos : W - 1 + (n + 1) = W + n := by omega
    rw [hpos, BitVec.getLsbD_of_ge (clmul W a b) (W + n) (by omega), Nat.add_sub_cancel, clmulh_getLsbD a b (by omega)]
    simp [hn]

/-- Settles O32: each reading is about the bits of the product from `W - 1` on. -/
theorem clmulrEquivalences : Obligations.ClmulrEquivalences :=
  fun _ hW a b => ⟨clmulr_toNat a b, clmulr_eq_reverseBits hW a b, clmulr_eq_clmulh_or_clmul a b⟩

end Sys2Proof.Machine
end

section
/-! The CRC engine: its laws, and the engine as polynomial division over GF(2) (`47_crc.md` R120 to R129). -/

namespace Sys2Proof.Machine

open Claims Polynomial

variable {W : Nat}

/-! ### The laws of the iteration -/

@[simp] theorem crc_zero_iterations (p : BitVec 32) (a : BitVec W) : crc 0 p W a = a := rfl

theorem crc_succ (n : Nat) (p : BitVec 32) (a : BitVec W) : crc (n + 1) p W a = crc n p W (crcStep p a) := rfl

/-- R120 (a): iterations compose. -/
theorem crc_add (n n' : Nat) (p : BitVec 32) (a : BitVec W) : crc (n + n') p W a = crc n' p W (crc n p W a) := by
  induction n generalizing a with
  | zero => rw [Nat.zero_add, crc_zero_iterations]
  | succ n ih => rw [Nat.add_right_comm, crc_succ, ih, ← crc_succ]

/-- One iteration with the choice made explicit: the shifted accumulator XOR the constant or nothing. -/
theorem crcStep_eq (p : BitVec 32) (x : BitVec W) :
    crcStep p x = (x >>> 1) ^^^ if x.getLsbD 0 then p.setWidth W else 0 := by
  unfold crcStep
  split_ifs <;> simp

theorem isXorLinear_crcStep (p : BitVec 32) : IsXorLinear (crcStep p : BitVec W → BitVec W) := by
  intro x y
  have hshift : (x ^^^ y) >>> 1 = (x >>> 1) ^^^ (y >>> 1) := BitVec.ushiftRight_xor_distrib x y 1
  have hchoice : (if (x ^^^ y).getLsbD 0 then p.setWidth W else 0) =
      (if x.getLsbD 0 then p.setWidth W else 0) ^^^ if y.getLsbD 0 then p.setWidth W else 0 := by
    rw [BitVec.getLsbD_xor]
    cases x.getLsbD 0 <;> cases y.getLsbD 0 <;> simp
  rw [crcStep_eq, crcStep_eq, crcStep_eq, hshift, hchoice]
  ac_rfl

/-- R120 (b): the CRC is linear. -/
theorem isXorLinear_crc (n : Nat) (p : BitVec 32) : IsXorLinear (crc n p W) := by
  induction n with
  | zero => exact fun _ _ => rfl
  | succ n ih => exact fun x y => by rw [crc_succ, isXorLinear_crcStep p x y, ih, ← crc_succ, ← crc_succ]

/-- One iteration takes one bit off a value, down to the 32 bits of the constant. -/
theorem crcStep_getLsbD_of_ge (p : BitVec 32) {x : BitVec W} {k : Nat} (hx : ∀ i, k ≤ i → x.getLsbD i = false) {i : Nat}
    (hi : max 32 (k - 1) ≤ i) : (crcStep p x).getLsbD i = false := by
  have hconst : (if x.getLsbD 0 then p.setWidth W else 0).getLsbD i = false := by
    split_ifs
    · rw [BitVec.getLsbD_setWidth, BitVec.getLsbD_of_ge p i (by omega), Bool.and_false]
    · exact BitVec.getLsbD_zero
  rw [crcStep_eq, BitVec.getLsbD_xor, BitVec.getLsbD_ushiftRight, hx (1 + i) (by omega), hconst]
  rfl

/-- R120 (c): after `n` iterations the value is `n` bits shorter, down to the 32 bits of the constant. -/
theorem crc_getLsbD_of_ge (n : Nat) (p : BitVec 32) {x : BitVec W} {k : Nat} (hx : ∀ i, k ≤ i → x.getLsbD i = false)
    {i : Nat} (hi : max 32 (k - n) ≤ i) : (crc n p W x).getLsbD i = false := by
  induction n generalizing x k with
  | zero => exact hx i (by omega)
  | succ n ih => exact ih (fun _ => crcStep_getLsbD_of_ge p hx) (by omega)

/-- Settles O51: each law is an induction over the iterations. -/
theorem crcLaws : Obligations.CrcLaws := by
  intro W _ p a a' n n'
  exact ⟨crc_add n n' p a, isXorLinear_crc n p a a', (isXorLinear_crc n p).map_zero,
    fun _ hi => crc_getLsbD_of_ge n p (fun j hj => BitVec.getLsbD_of_ge a j hj) hi⟩

/-! ### The operand as a polynomial -/

@[simp] theorem reflectedPoly_zero : reflectedPoly 0#W = 0 := by
  simp [reflectedPoly]

/-- XOR is the addition of polynomials over GF(2). -/
theorem reflectedPoly_xor (x y : BitVec W) : reflectedPoly (x ^^^ y) = reflectedPoly x + reflectedPoly y := by
  unfold reflectedPoly
  rw [← Finset.sum_add_distrib]
  refine Finset.sum_congr rfl fun i _ => ?_
  rw [BitVec.getLsbD_xor]
  cases x.getLsbD i <;> cases y.getLsbD i <;> simp [CharTwo.add_self_eq_zero]

theorem degree_reflectedPoly_lt (v : BitVec W) : (reflectedPoly v).degree < W := by
  refine (degree_sum_le _ _).trans_lt ((Finset.sup_lt_iff (WithBot.bot_lt_coe W)).mpr fun i hi => ?_)
  have hlt := Finset.mem_range.mp hi
  split_ifs
  · rw [degree_X_pow]
    exact Nat.cast_lt.mpr (by omega)
  · rw [degree_zero]
    exact WithBot.bot_lt_coe W

/-- The shift is the multiplication by `X`, except that the bit shifted out is the coefficient of `X^W`. -/
theorem X_mul_reflectedPoly (hW : 0 < W) (x : BitVec W) :
    X * reflectedPoly x = reflectedPoly (x >>> 1) + if x.getLsbD 0 then X ^ W else 0 := by
  obtain ⟨n, rfl⟩ := Nat.exists_eq_succ_of_ne_zero hW.ne'
  have htop : (x >>> 1).getLsbD n = false := by
    rw [BitVec.getLsbD_ushiftRight, BitVec.getLsbD_of_ge x (1 + n) (by omega)]
  unfold reflectedPoly
  rw [Finset.sum_range_succ', Finset.sum_range_succ, htop, mul_add, Finset.mul_sum]
  have hshift : ∀ i ∈ Finset.range n,
      (X * if x.getLsbD (i + 1) then X ^ (n.succ - 1 - (i + 1)) else 0 : (ZMod 2)[X]) =
        if (x >>> 1).getLsbD i then X ^ (n.succ - 1 - i) else 0 := fun i hi => by
    have hlt := Finset.mem_range.mp hi
    have hexp : n.succ - 1 - i = n.succ - 1 - (i + 1) + 1 := by omega
    rw [BitVec.getLsbD_ushiftRight, Nat.add_comm 1 i, hexp, mul_ite, mul_zero, pow_succ']
  rw [Finset.sum_congr rfl hshift, mul_ite, mul_zero, ← pow_succ']
  simp

/-! ### The iteration as a division step -/

theorem crcModulus_monic (p : BitVec 32) : (crcModulus W p).Monic := monic_X_pow_add (degree_reflectedPoly_lt _)

theorem degree_crcModulus (p : BitVec 32) : (crcModulus W p).degree = W := by
  rw [crcModulus, degree_add_eq_left_of_degree_lt, degree_X_pow]
  rw [degree_X_pow]
  exact degree_reflectedPoly_lt _

/-- One iteration is a multiplication by `X` and the subtraction of the modulus where the coefficient of `X^W` is 1. -/
theorem X_mul_reflectedPoly_eq_crcStep (hW : 0 < W) (p : BitVec 32) (x : BitVec W) :
    X * reflectedPoly x = reflectedPoly (crcStep p x) + crcModulus W p * if x.getLsbD 0 then 1 else 0 := by
  rw [X_mul_reflectedPoly hW, crcStep_eq, reflectedPoly_xor, crcModulus]
  split_ifs with hout
  · have hcancel := CharTwo.add_self_eq_zero (reflectedPoly (p.setWidth W))
    linear_combination -hcancel
  · simp

/-- After `n` iterations the accumulator differs from the operand times `X^n` by a multiple of the modulus. -/
theorem exists_quotient_of_crc (hW : 0 < W) (n : Nat) (p : BitVec 32) (a : BitVec W) :
    ∃ q, reflectedPoly (crc n p W a) + crcModulus W p * q = reflectedPoly a * X ^ n := by
  induction n generalizing a with
  | zero => exact ⟨0, by simp⟩
  | succ n ih =>
    obtain ⟨q, hq⟩ := ih (crcStep p a)
    have hstep := X_mul_reflectedPoly_eq_crcStep hW p a
    refine ⟨q + (if a.getLsbD 0 then 1 else 0) * X ^ n, ?_⟩
    rw [crc_succ]
    linear_combination hq - X ^ n * hstep

/-- The CRC is the remainder: it is shorter than the modulus and differs from the dividend by a multiple of it. -/
theorem isCrcOf_crc (hW : 0 < W) (n : Nat) (p : BitVec 32) (a : BitVec W) : IsCrcOf n p a (crc n p W a) := by
  obtain ⟨q, hq⟩ := exists_quotient_of_crc hW n p a
  have hdegree : (reflectedPoly (crc n p W a)).degree < (crcModulus W p).degree := by
    rw [degree_crcModulus]
    exact degree_reflectedPoly_lt _
  exact (div_modByMonic_unique q _ (crcModulus_monic p) ⟨hq, hdegree⟩).2.symm

/-! ### The eight functions -/

/-- An operation that writes the native CRC over `n` bits writes the remainder. -/
theorem completesWith_native_crc {i : Instr} {s : State} {n : Nat} {p : BitVec 32} {va : Word}
    (h : exec i s = completeCommand i.rd (native1 s.cfg.xlen (crc n p) va) s) :
    CompletesWith i s fun v =>
      ∃ r : BitVec s.cfg.xlen.bits, v = r.setWidth 64 ∧ IsCrcOf n p (va.setWidth s.cfg.xlen.bits) r := by
  have hW : 0 < s.cfg.xlen.bits := by have := Xlen.bits_cases s.cfg.xlen; omega
  exact completesWith_of_exec h ⟨_, toXlen_native1 .., isCrcOf_crc hW n p _⟩

/-- Settles O49: the six are the native CRC over 8, 16 and 32 bits with either constant. -/
theorem crcIsPolynomialRemainder : Obligations.CrcIsPolynomialRemainder := by
  intro s rd rs1
  simp only [List.forall_mem_cons]
  exact ⟨completesWith_native_crc rfl, completesWith_native_crc rfl, completesWith_native_crc rfl,
    completesWith_native_crc rfl, completesWith_native_crc rfl, completesWith_native_crc rfl, List.forall_mem_nil _⟩

/-- Settles O50: both are the CRC over 64 bits of the whole 64-bit operand. -/
theorem crc64IsPolynomialRemainder : Obligations.Crc64IsPolynomialRemainder :=
  fun _ _ _ hx =>
    ⟨completesWith_of_exec_require64 hx rfl (isCrcOf_crc (by omega) 64 polyCrc32 _),
      completesWith_of_exec_require64 hx rfl (isCrcOf_crc (by omega) 64 polyCrc32c _)⟩

end Sys2Proof.Machine
end

section
/-! The bit-matrix unit by bits and its laws: the GF(2) product as the product of matrices over `ZMod 2`, the boolean product
as the composition of relations (`48_bitmatrix.md` R130 to R134). -/

namespace Sys2Proof.Machine

open Claims

/-! ### Building a matrix from its elements -/

/-- A loop whose steps only OR something into bit `i` leaves there the OR of it all. -/
theorem foldl_or_getLsbD {W i : Nat} {α : Type} {f : BitVec W → α → BitVec W} {g : α → Bool}
    (h : ∀ r x, (f r x).getLsbD i = (r.getLsbD i || g x)) (l : List α) (r : BitVec W) :
    (l.foldl f r).getLsbD i = (r.getLsbD i || l.any g) := by
  induction l generalizing r with
  | nil => rw [List.foldl_nil, List.any_nil, Bool.or_false]
  | cons x l ih => rw [List.foldl_cons, ih, h, List.any_cons, Bool.or_assoc]

/-- R130: element (`i / 8`, `i mod 8`) is bit `i`. -/
theorem matrixOf_getLsbD (f : Nat → Nat → Bool) {i : Nat} (hi : i < 64) :
    (matrixOf f).getLsbD i = f (i / 8) (i % 8) := by
  have hrow := fun (r : BitVec 64) (row : Nat) =>
    foldl_or_getLsbD (fun r col => setBitIf_getLsbD (f row col) r (8 * row + col) hi) (List.range 8) r
  have hmatrix := foldl_or_getLsbD hrow (List.range 8) 0
  refine hmatrix.trans (Bool.eq_iff_iff.mpr ?_)
  simp only [BitVec.ofNat_eq_ofNat, BitVec.getLsbD_zero, Bool.false_or, List.any_eq_true, List.mem_range,
    Bool.and_eq_true, beq_iff_eq]
  constructor
  · rintro ⟨row, -, col, hcol, hf, hpos⟩
    obtain ⟨rfl, rfl⟩ : i / 8 = row ∧ i % 8 = col := by omega
    exact hf
  · exact fun hf => ⟨i / 8, by omega, i % 8, by omega, hf, by omega⟩

/-! ### The transpose -/

/-- Three full shuffles of a 64-bit word rotate its six index bits by three: they exchange row and column. -/
theorem fullShuffleSource_three : ∀ i < 64, (fullShuffleSource 64)^[3] i = 8 * (i % 8) + i / 8 := by decide +kernel

/-- R131 by bits. -/
theorem bmatflip_getLsbD (a : BitVec 64) {i : Nat} (hi : i < 64) :
    (bmatflip a).getLsbD i = a.getLsbD (8 * (i % 8) + i / 8) := by
  have hshuffle : ∀ x : BitVec 64, ∀ p < 64,
      fullShuffleSource 64 p < 64 ∧ (shfl 64 x 31).getLsbD p = x.getLsbD (fullShuffleSource 64 p) := fun x p hp =>
    ⟨(fullShuffleSource_iterate (.inr rfl) p hp).1, fullShuffle_getLsbD (.inr rfl) x hp⟩
  rw [← fullShuffleSource_three i hi]
  exact iterate_getLsbD hshuffle 3 a hi

/-- Settles O52: the full shuffle moves index bits, and three of them exchange row and column. -/
theorem bmatflipTransposes : Obligations.BmatflipTransposes :=
  fun _ _ _ hx => completesWith_of_exec_require64 hx rfl (nativeBits_x64 fun _ hi => bmatflip_getLsbD _ hi)

/-! ### The products -/

/-- The pairs of elements that decide element (`row`, `col`) of a product. -/
theorem rowAndColumn_getLsbD (a b : BitVec 64) (row : Nat) {col k : Nat} (hcol : col < 8) (hk : k < 8) :
    (rowAndColumn a b row col).getLsbD k = (a.getLsbD (8 * row + k) && b.getLsbD (8 * k + col)) := by
  have hpos : 8 * ((8 * col + k) % 8) + (8 * col + k) / 8 = 8 * k + col := by omega
  rw [rowAndColumn, BitVec.getLsbD_and, matrixRow, matrixRow, BitVec.getLsbD_extractLsb', BitVec.getLsbD_extractLsb',
    bmatflip_getLsbD b (by omega), hpos, decide_eq_true hk, Bool.true_and, Bool.true_and]

/-- R132 by bits. -/
theorem bmatxor_getLsbD (a b : BitVec 64) {i : Nat} (hi : i < 64) :
    (bmatxor a b).getLsbD i =
      (((List.range 8).countP fun k => a.getLsbD (8 * (i / 8) + k) && b.getLsbD (8 * k + i % 8)) % 2 == 1) := by
  rw [bmatxor, matrixOf_getLsbD _ hi, popcount]
  congr 2
  exact List.countP_congr fun k hk => by
    rw [rowAndColumn_getLsbD a b _ (Nat.mod_lt i (by omega)) (List.mem_range.mp hk)]

/-- R133 by bits. -/
theorem bmator_getLsbD (a b : BitVec 64) {i : Nat} (hi : i < 64) :
    (bmator a b).getLsbD i =
      (List.range 8).any fun k => a.getLsbD (8 * (i / 8) + k) && b.getLsbD (8 * k + i % 8) := by
  have hcol : i % 8 < 8 := Nat.mod_lt i (by omega)
  have hzero : rowAndColumn a b (i / 8) (i % 8) = 0 ↔ ∀ k < 8, (rowAndColumn a b (i / 8) (i % 8)).getLsbD k = false := by
    refine ⟨fun h k _ => h ▸ BitVec.getLsbD_zero, fun h => BitVec.eq_of_getLsbD_eq fun k hk => ?_⟩
    rw [h k hk]
    exact BitVec.getLsbD_zero.symm
  rw [bmator, matrixOf_getLsbD _ hi, Bool.eq_iff_iff, bne_iff_ne, ne_eq, hzero]
  simp only [not_forall, Bool.not_eq_false, List.any_eq_true, List.mem_range, exists_prop]
  exact exists_congr fun k => and_congr_right fun hk => by rw [rowAndColumn_getLsbD a b _ hcol hk]

/-- Settles O53: the parity of the row of `a` against the row of the transposed `b`. -/
theorem bmatxorMultipliesOverGF2 : Obligations.BmatxorMultipliesOverGF2 :=
  fun _ _ _ _ hx => completesWith_of_exec_require64 hx rfl (nativeBits_x64 fun _ hi => bmatxor_getLsbD _ _ hi)

/-- Settles O54: the row of `a` against the row of the transposed `b` has a one. -/
theorem bmatorMultipliesBooleans : Obligations.BmatorMultipliesBooleans :=
  fun _ _ _ _ hx => completesWith_of_exec_require64 hx rfl (nativeBits_x64 fun _ hi => bmator_getLsbD _ _ hi)

/-! ### The elements of a word -/

/-- The element in row `r` and column `c` of a word (R130). -/
def element (v : BitVec 64) (r c : Fin 8) : Bool := v.getLsbD (8 * r + c)

theorem eq_of_element_eq {u v : BitVec 64} (h : ∀ r c, element u r c = element v r c) : u = v := by
  refine BitVec.eq_of_getLsbD_eq fun i hi => ?_
  have hpos : 8 * (i / 8) + i % 8 = i := Nat.div_add_mod i 8
  simpa only [element, hpos] using h ⟨i / 8, by omega⟩ ⟨i % 8, by omega⟩

section element

variable (a b : BitVec 64) (r c : Fin 8)

theorem element_position : 8 * (r : Nat) + c < 64 ∧ (8 * (r : Nat) + c) / 8 = r ∧ (8 * (r : Nat) + c) % 8 = c := by
  omega

@[simp] theorem element_xor : element (a ^^^ b) r c = (element a r c ^^ element b r c) := BitVec.getLsbD_xor

@[simp] theorem element_or : element (a ||| b) r c = (element a r c || element b r c) := BitVec.getLsbD_or

@[simp] theorem element_bmatflip : element (bmatflip a) r c = element a c r := by
  obtain ⟨hlt, hdiv, hmod⟩ := element_position r c
  rw [element, bmatflip_getLsbD a hlt, hdiv, hmod, element]

theorem element_bmatxor :
    element (bmatxor a b) r c =
      (((List.range 8).countP fun k => a.getLsbD (8 * r + k) && b.getLsbD (8 * k + c)) % 2 == 1) := by
  obtain ⟨hlt, hdiv, hmod⟩ := element_position r c
  rw [element, bmatxor_getLsbD a b hlt, hdiv, hmod]

theorem element_bmator_iff :
    element (bmator a b) r c = true ↔ ∃ k, element a r k = true ∧ element b k c = true := by
  obtain ⟨hlt, hdiv, hmod⟩ := element_position r c
  rw [element, bmator_getLsbD a b hlt, hdiv, hmod]
  simp only [List.any_eq_true, List.mem_range, Bool.and_eq_true, Fin.exists_iff, element, exists_prop]

end element

/-! ### The GF(2) product as a product of matrices -/

/-- A truth value as an element of GF(2). -/
def gf2 (c : Bool) : ZMod 2 := if c then 1 else 0

theorem gf2_injective : Function.Injective gf2 := by decide

@[simp] theorem gf2_xor : ∀ c d, gf2 (c ^^ d) = gf2 c + gf2 d := by decide

theorem gf2_and : ∀ c d, gf2 (c && d) = gf2 c * gf2 d := by decide

/-- The parity of a count is the sum in GF(2). -/
theorem gf2_countP_range (p : Nat → Bool) (n : Nat) :
    gf2 ((List.range n).countP p % 2 == 1) = ∑ k : Fin n, gf2 (p k) := by
  have hparity : ∀ m : Nat, gf2 (m % 2 == 1) = (m : ZMod 2) := fun m => by
    rw [← ZMod.natCast_mod m 2]
    obtain h | h := Nat.mod_two_eq_zero_or_one m <;> rw [h] <;> rfl
  rw [hparity]
  induction n with
  | zero => rfl
  | succ n ih =>
    rw [List.range_succ, List.countP_append, Nat.cast_add, ih, Fin.sum_univ_castSucc, List.countP_singleton]
    cases h : p n <;> simp [gf2, h]

/-- The word as an 8x8 matrix over GF(2). -/
def toMatrix (v : BitVec 64) : Matrix (Fin 8) (Fin 8) (ZMod 2) := Matrix.of fun r c => gf2 (element v r c)

theorem toMatrix_injective : Function.Injective toMatrix := fun _ _ h =>
  eq_of_element_eq fun r c => gf2_injective (congrFun (congrFun h r) c)

theorem toMatrix_xor (a b : BitVec 64) : toMatrix (a ^^^ b) = toMatrix a + toMatrix b := by
  ext r c
  simp [toMatrix]

theorem toMatrix_bmatflip (a : BitVec 64) : toMatrix (bmatflip a) = (toMatrix a).transpose := by
  ext r c
  simp [toMatrix]

theorem toMatrix_bmatxor (a b : BitVec 64) : toMatrix (bmatxor a b) = toMatrix a * toMatrix b := by
  ext r c
  rw [Matrix.mul_apply, toMatrix, Matrix.of_apply, element_bmatxor, gf2_countP_range]
  simp only [gf2_and]
  rfl

/-! ### The boolean product as a composition of relations -/

/-- The word as a relation between its rows and its columns. -/
def toRelation (v : BitVec 64) : Fin 8 → Fin 8 → Prop := fun r c => element v r c = true

theorem toRelation_injective : Function.Injective toRelation := fun _ _ h =>
  eq_of_element_eq fun r c => Bool.eq_iff_iff.mpr (iff_of_eq (congrFun (congrFun h r) c))

theorem toRelation_bmatflip (a : BitVec 64) : toRelation (bmatflip a) = flip (toRelation a) := by
  ext r c
  simp [toRelation, flip]

theorem toRelation_bmator (a b : BitVec 64) :
    toRelation (bmator a b) = Relation.Comp (toRelation a) (toRelation b) := by
  ext r c
  exact element_bmator_iff a b r c

/-! ### The laws -/

theorem bmatxor_transpose_assoc (a b c : BitVec 64) :
    bmatflip (bmatxor a b) = bmatxor (bmatflip b) (bmatflip a) ∧ bmatxor (bmatxor a b) c = bmatxor a (bmatxor b c) := by
  constructor <;> apply toMatrix_injective
  · simp only [toMatrix_bmatflip, toMatrix_bmatxor, Matrix.transpose_mul]
  · simp only [toMatrix_bmatxor, Matrix.mul_assoc]

theorem bmator_transpose_assoc (a b c : BitVec 64) :
    bmatflip (bmator a b) = bmator (bmatflip b) (bmatflip a) ∧ bmator (bmator a b) c = bmator a (bmator b c) := by
  constructor <;> apply toRelation_injective
  · simp only [toRelation_bmatflip, toRelation_bmator, Relation.flip_comp]
  · simp only [toRelation_bmator, Relation.comp_assoc]

theorem bmatxor_bilinear (a b c : BitVec 64) :
    bmatxor (a ^^^ b) c = bmatxor a c ^^^ bmatxor b c ∧ bmatxor c (a ^^^ b) = bmatxor c a ^^^ bmatxor c b := by
  constructor <;> apply toMatrix_injective
  · simp only [toMatrix_bmatxor, toMatrix_xor, Matrix.add_mul]
  · simp only [toMatrix_bmatxor, toMatrix_xor, Matrix.mul_add]

theorem bmator_distributes (a b c : BitVec 64) :
    bmator (a ||| b) c = bmator a c ||| bmator b c ∧ bmator c (a ||| b) = bmator c a ||| bmator c b := by
  constructor <;> refine eq_of_element_eq fun r col => Bool.eq_iff_iff.mpr ?_
  · simp only [element_or, Bool.or_eq_true, element_bmator_iff, or_and_right, exists_or]
  · simp only [element_or, Bool.or_eq_true, element_bmator_iff, and_or_left, exists_or]

/-- Settles O55: the laws of matrices over GF(2) and of relations, and the transpose exchanges row and column. -/
theorem bitMatrixLaws : Obligations.BitMatrixLaws := by
  intro a b c
  have hinvolution : bmatflip (bmatflip a) = a := eq_of_element_eq fun r col => by
    rw [element_bmatflip, element_bmatflip]
  simp only [List.forall_mem_cons]
  exact ⟨hinvolution, ⟨bmatxor_transpose_assoc a b c, bmator_transpose_assoc a b c, List.forall_mem_nil _⟩, (bmatxor_bilinear a b c).1,
    (bmatxor_bilinear a b c).2, (bmator_distributes a b c).1, (bmator_distributes a b c).2⟩

end Sys2Proof.Machine
end

section
/-! The assembler reads back the text that it prints: a line word by word, a text line by line (`30_encoding.md` R39). -/

namespace Sys2Proof

/-! ### Words without separators -/

/-- A character that ends a word or a line: a blank, a comma, a semicolon or a line end. -/
def isSeparator (c : Char) : Bool := isBlank c || c == ',' || c == ';' || c == '\n'

/-- A word as the assembler prints them: it is not empty and has no separator in it. -/
def IsPlainWord (cs : List Char) : Prop := cs ≠ [] ∧ (cs.all fun c => !isSeparator c) = true

theorem IsPlainWord.isSeparator {cs : List Char} (h : IsPlainWord cs) {c : Char} (hc : c ∈ cs) :
    isSeparator c = false := by
  simpa using List.all_eq_true.mp h.2 c hc

theorem IsPlainWord.isBlank {cs : List Char} (h : IsPlainWord cs) {c : Char} (hc : c ∈ cs) : isBlank c = false := by
  have hsep := h.isSeparator hc
  simp only [Sys2Proof.isSeparator, Bool.or_eq_false_iff] at hsep
  exact hsep.1.1.1

theorem isPlainWord_regName : ∀ r : Reg, IsPlainWord (regName r) := by
  unfold IsPlainWord
  decide +kernel

theorem isPlainWord_mnemonic (i : Instr) : IsPlainWord i.mnemonic.toList := by
  unfold IsPlainWord
  cases i <;> simp only [Instr.mnemonic] <;> decide

/-! ### Trimming -/

/-- A list whose ends are not blank is not trimmed. -/
theorem trimBlanks_eq_self {cs : List Char} (hfirst : ∀ c ∈ cs.head?, isBlank c = false)
    (hlast : ∀ c ∈ cs.getLast?, isBlank c = false) : trimBlanks cs = cs := by
  have hdrop : ∀ ds : List Char, (∀ c ∈ ds.head?, isBlank c = false) → ds.dropWhile isBlank = ds := fun ds h => by
    cases ds with
    | nil => rfl
    | cons d ds => rw [List.dropWhile_cons_of_neg (by simp [h d rfl])]
  rw [trimBlanks, hdrop cs hfirst, hdrop _ (by rwa [List.head?_reverse]), List.reverse_reverse]

/-- A text that begins and ends with plain words is not trimmed. -/
theorem trimBlanks_words {first last : List Char} (hfirst : IsPlainWord first) (hlast : IsPlainWord last)
    {cs pre post : List Char} (hpre : cs = first ++ post) (hpost : cs = pre ++ last) : trimBlanks cs = cs := by
  refine trimBlanks_eq_self (fun c hc => hfirst.isBlank ?_) fun c hc => hlast.isBlank ?_
  · rw [hpre, List.head?_append_of_ne_nil _ hfirst.1] at hc
    exact List.mem_of_mem_head? hc
  · rw [hpost, List.getLast?_append_of_ne_nil _ hlast.1] at hc
    exact List.mem_of_mem_getLast? hc

theorem trimBlanks_blank_cons (cs : List Char) : trimBlanks (' ' :: cs) = trimBlanks cs := rfl

/-! ### Operands -/

theorem readRegName_regName : ∀ r : Reg, readRegName (regName r) = some r := by decide +kernel

/-- The operand text, with the blank after the mnemonic, is a list of blank-led register names between commas. -/
theorem blank_cons_operandText (r : Reg) (rs : List Reg) :
    ' ' :: operandText (r :: rs) = [','].intercalate ((r :: rs).map fun r => ' ' :: regName r) := by
  induction rs generalizing r with
  | nil => simp [operandText]
  | cons r' rs ih =>
    have hrest := ih r'
    rw [List.map_cons] at hrest
    rw [List.map_cons, List.map_cons, List.intercalate_cons_cons, ← hrest, operandText]
    · simp
    · simp

theorem operandText_ends_with_regName (r : Reg) (rs : List Reg) :
    ∃ pre last, operandText (r :: rs) = pre ++ regName last := by
  induction rs generalizing r with
  | nil => exact ⟨[], r, rfl⟩
  | cons r' rs ih =>
    obtain ⟨pre, last, h⟩ := ih r'
    exact ⟨regName r ++ ',' :: ' ' :: pre, last, by simp [operandText, h]⟩

/-- Reading every element of a list back from its text reads the list back. -/
theorem mapM_map_eq_some {α β γ : Type} {f : β → Option γ} {g : α → β} {h : α → γ} (l : List α)
    (hread : ∀ x, f (g x) = some (h x)) : (l.map g).mapM f = some (l.map h) := by
  induction l with
  | nil => rfl
  | cons x l ih => simp [hread, ih]

theorem readOperands_operandText (r : Reg) (rs : List Reg) :
    readOperands (' ' :: operandText (r :: rs)) = some (r :: rs) := by
  have hcomma : ∀ t ∈ (r :: rs).map (fun r => ' ' :: regName r), ',' ∉ t := by
    simp only [List.mem_map]
    rintro _ ⟨r, -, rfl⟩ hmem
    have hname : ',' ∈ regName r := by simpa using hmem
    exact absurd ((isPlainWord_regName r).isSeparator hname) (by decide)
  have hread : ∀ r : Reg, readRegName (trimBlanks (' ' :: regName r)) = some (id r) := fun r => by
    have hword := isPlainWord_regName r
    rw [trimBlanks_blank_cons, trimBlanks_words hword hword (List.append_nil _).symm (List.nil_append _).symm,
      readRegName_regName, id]
  rw [readOperands, blank_cons_operandText, List.splitOn_intercalate _ hcomma (by simp),
    mapM_map_eq_some (f := fun t => readRegName (trimBlanks t)) _ hread, List.map_id]

/-! ### One line -/

theorem mem_operandText {rs : List Reg} {c : Char} (hc : c ∈ operandText rs) :
    c = ' ' ∨ c = ',' ∨ isSeparator c = false := by
  induction rs with
  | nil => cases hc
  | cons r rs ih =>
    have hname : c ∈ regName r → isSeparator c = false := (isPlainWord_regName r).isSeparator
    cases rs with
    | nil => exact .inr (.inr (hname hc))
    | cons r' rs =>
      rw [operandText, List.mem_append, List.mem_cons, List.mem_cons] at hc
      · obtain hc | hc | hc | hc := hc
        · exact .inr (.inr (hname hc))
        · exact .inr (.inl hc)
        · exact .inl hc
        · exact ih hc
      · simp

/-- No character of a printed line starts a comment or ends the line. -/
theorem ne_of_mem_asm {i : Instr} {c : Char} (hc : c ∈ i.asm) : c ≠ ';' ∧ c ≠ '\n' := by
  have hcases : c = ' ' ∨ c = ',' ∨ isSeparator c = false := by
    rw [Instr.asm, List.mem_append, List.mem_cons] at hc
    obtain hc | hc | hc := hc
    · exact .inr (.inr ((isPlainWord_mnemonic i).isSeparator hc))
    · exact .inl hc
    · exact mem_operandText hc
  obtain rfl | rfl | h := hcases
  · decide
  · decide
  · constructor <;> rintro rfl <;> exact absurd h (by decide)

/-- The mnemonic and the operands of an operation name it again. -/
theorem instrOf_mnemonic (i : Instr) : instrOf i.mnemonic (i.rd :: i.sources) = some i := by
  cases i <;> rfl

theorem trimBlanks_asm (i : Instr) : trimBlanks i.asm = i.asm := by
  obtain ⟨pre, last, hlast⟩ := operandText_ends_with_regName i.rd i.sources
  exact trimBlanks_words (isPlainWord_mnemonic i) (isPlainWord_regName last) rfl
    (pre := i.mnemonic.toList ++ ' ' :: pre) (by rw [Instr.asm, hlast]; simp)

theorem assembleLine_asm (i : Instr) : assembleLine i.asm = some [i] := by
  have hcomment : i.asm.takeWhile (· != ';') = i.asm :=
    List.takeWhile_eq_self_iff.mpr fun c hc => by simpa using (ne_of_mem_asm hc).1
  have hword : ∀ c ∈ i.mnemonic.toList, (!isBlank c) = true := fun c hc => by
    rw [(isPlainWord_mnemonic i).isBlank hc]; rfl
  have hname : i.asm.takeWhile (!isBlank ·) = i.mnemonic.toList := by
    rw [Instr.asm, List.takeWhile_append_of_pos hword, List.takeWhile_cons_of_neg (by decide), List.append_nil]
  have hrest : i.asm.dropWhile (!isBlank ·) = ' ' :: operandText (i.rd :: i.sources) := by
    rw [Instr.asm, List.dropWhile_append_of_pos hword, List.dropWhile_cons_of_neg (by decide)]
  have hnonempty : i.asm.isEmpty = false := by simp [Instr.asm]
  simp [assembleLine, hcomment, trimBlanks_asm, hname, hrest, hnonempty, readOperands_operandText, instrOf_mnemonic]

/-! ### A text -/

/-- A text of printed lines is split into them again. -/
theorem mapM_assembleLine_splitOn (p : List Instr) (hp : p ≠ []) :
    ((['\n'].intercalate (p.map Instr.asm)).splitOn '\n').mapM assembleLine = some (p.map fun i => [i]) := by
  have hline : ∀ l ∈ p.map Instr.asm, '\n' ∉ l := by
    simp only [List.mem_map]
    rintro _ ⟨i, -, rfl⟩ hmem
    exact (ne_of_mem_asm hmem).2 rfl
  rw [List.splitOn_intercalate _ hline (by simpa using hp), mapM_map_eq_some p assembleLine_asm]

/-- Settles O6: the words of a line have no separators in them and a line no line end, so both are split where they were
put together; the empty program prints the empty text, which is one empty line. -/
theorem assemblerReadsItsOwnText : Obligations.AssemblerReadsItsOwnText := by
  refine ⟨assembleLine_asm, fun p => ?_⟩
  obtain rfl | hp := eq_or_ne p []
  · rfl
  · rw [assemble, mapM_assembleLine_splitOn p hp, Option.map_some, ← List.flatMap_def, List.flatMap_singleton']

end Sys2Proof
end
